-- ==== Sys2Proof/Word.lean ====
section
/-! DEFINITION. The word types of the CORE (00_scope.md R9, R10; 10_state.md R20). -/

namespace Sys2Proof

/-- One byte of memory, one general register, one timer (10_state.md R20). -/
abbrev Byte := BitVec 8

/-- An instruction word, an address register, a stack entry: 16 bits (10_state.md R20, 30_encoding.md R70). -/
abbrev Word := BitVec 16

/-- A register index, the `x` or `y` field of a word (30_encoding.md R71). -/
abbrev RegIdx := BitVec 4

end Sys2Proof
end

