-- ==== Sys2Proof/Syntax.lean ====
section
/-! DEFINITION. The 34 instructions of 30_encoding.md R75, one constructor per row of the opcode map, in its order.
Each operand has exactly the width of its field (30_encoding.md R71), so no operand value is out of range. -/

namespace Sys2Proof

/-- The instructions of the CORE (30_encoding.md R75). `SHR Vx` and `SHL Vx` have no `y`: the field is ignored
(30_encoding.md R79). -/
inductive Instr where
  | cls
  | ret
  | jp (nnn : BitVec 12)
  | call (nnn : BitVec 12)
  | seVxByte (x : RegIdx) (kk : Byte)
  | sneVxByte (x : RegIdx) (kk : Byte)
  | seVxVy (x y : RegIdx)
  | ldVxByte (x : RegIdx) (kk : Byte)
  | addVxByte (x : RegIdx) (kk : Byte)
  | ldVxVy (x y : RegIdx)
  | orVxVy (x y : RegIdx)
  | andVxVy (x y : RegIdx)
  | xorVxVy (x y : RegIdx)
  | addVxVy (x y : RegIdx)
  | subVxVy (x y : RegIdx)
  | shrVx (x : RegIdx)
  | subnVxVy (x y : RegIdx)
  | shlVx (x : RegIdx)
  | sneVxVy (x y : RegIdx)
  | ldIAddr (nnn : BitVec 12)
  | jpV0Addr (nnn : BitVec 12)
  | rndVxByte (x : RegIdx) (kk : Byte)
  | drw (x y : RegIdx) (n : BitVec 4)
  | skpVx (x : RegIdx)
  | sknpVx (x : RegIdx)
  | ldVxDt (x : RegIdx)
  | ldVxK (x : RegIdx)
  | ldDtVx (x : RegIdx)
  | ldStVx (x : RegIdx)
  | addIVx (x : RegIdx)
  | ldFVx (x : RegIdx)
  | ldBVx (x : RegIdx)
  | ldMemVx (x : RegIdx)
  | ldVxMem (x : RegIdx)
  deriving DecidableEq, Repr

end Sys2Proof
end

