-- ==== Sys2Proof/Decode.lean ====
section
/-! DEFINITION. Decoding a word (30_encoding.md R71, R76), the encoder, and the opcode map (R75). -/

namespace Sys2Proof

/-- `{hi, lo}`: the word of two consecutive bytes, the lower address in bits 15..8 (20_memory.md R54). -/
def wordOfBytes (hi lo : Byte) : Word := hi ++ lo

/-- Bits 15..8 of a word, the byte at the lower address (20_memory.md R54). -/
def wordHi (w : Word) : Byte := w.extractLsb' 8 8

/-- Bits 7..0 of a word, the byte at the higher address (20_memory.md R54). -/
def wordLo (w : Word) : Byte := w.extractLsb' 0 8

/-- `op = w[15:12]` (30_encoding.md R71). -/
def fieldOp (w : Word) : BitVec 4 := w.extractLsb' 12 4

/-- `x = w[11:8]` (30_encoding.md R71). -/
def fieldX (w : Word) : RegIdx := w.extractLsb' 8 4

/-- `y = w[7:4]` (30_encoding.md R71). -/
def fieldY (w : Word) : RegIdx := w.extractLsb' 4 4

/-- `n = w[3:0]` (30_encoding.md R71). -/
def fieldN (w : Word) : BitVec 4 := w.extractLsb' 0 4

/-- `kk = w[7:0]` (30_encoding.md R71). -/
def fieldKk (w : Word) : Byte := w.extractLsb' 0 8

/-- `nnn = w[11:0]` (30_encoding.md R71). -/
def fieldNnn (w : Word) : BitVec 12 := w.extractLsb' 0 12

/-- Family 8 of 30_encoding.md R76: the low nibble selects the operation. -/
def decode8 (x y n : BitVec 4) : Option Instr :=
  match n with
  | 0x0#4 => some (.ldVxVy x y)
  | 0x1#4 => some (.orVxVy x y)
  | 0x2#4 => some (.andVxVy x y)
  | 0x3#4 => some (.xorVxVy x y)
  | 0x4#4 => some (.addVxVy x y)
  | 0x5#4 => some (.subVxVy x y)
  | 0x6#4 => some (.shrVx x)
  | 0x7#4 => some (.subnVxVy x y)
  | 0xE#4 => some (.shlVx x)
  | _ => none

/-- Family F of 30_encoding.md R76: the low byte selects the operation. -/
def decodeF (x : BitVec 4) (kk : Byte) : Option Instr :=
  match kk with
  | 0x07#8 => some (.ldVxDt x)
  | 0x0A#8 => some (.ldVxK x)
  | 0x15#8 => some (.ldDtVx x)
  | 0x18#8 => some (.ldStVx x)
  | 0x1E#8 => some (.addIVx x)
  | 0x29#8 => some (.ldFVx x)
  | 0x33#8 => some (.ldBVx x)
  | 0x55#8 => some (.ldMemVx x)
  | 0x65#8 => some (.ldVxMem x)
  | _ => none

/-- `Decode(w)` of 30_encoding.md R76; `none` is UNRECOGNIZED. It reads no state. -/
def decode (w : Word) : Option Instr :=
  match fieldOp w with
  | 0x0#4 => if w = 0x00E0#16 then some .cls else if w = 0x00EE#16 then some .ret else none
  | 0x1#4 => some (.jp (fieldNnn w))
  | 0x2#4 => some (.call (fieldNnn w))
  | 0x3#4 => some (.seVxByte (fieldX w) (fieldKk w))
  | 0x4#4 => some (.sneVxByte (fieldX w) (fieldKk w))
  | 0x5#4 => if fieldN w = 0 then some (.seVxVy (fieldX w) (fieldY w)) else none
  | 0x6#4 => some (.ldVxByte (fieldX w) (fieldKk w))
  | 0x7#4 => some (.addVxByte (fieldX w) (fieldKk w))
  | 0x8#4 => decode8 (fieldX w) (fieldY w) (fieldN w)
  | 0x9#4 => if fieldN w = 0 then some (.sneVxVy (fieldX w) (fieldY w)) else none
  | 0xA#4 => some (.ldIAddr (fieldNnn w))
  | 0xB#4 => some (.jpV0Addr (fieldNnn w))
  | 0xC#4 => some (.rndVxByte (fieldX w) (fieldKk w))
  | 0xD#4 => some (.drw (fieldX w) (fieldY w) (fieldN w))
  | 0xE#4 =>
    if fieldKk w = 0x9E then some (.skpVx (fieldX w))
    else if fieldKk w = 0xA1 then some (.sknpVx (fieldX w))
    else none
  | _ => decodeF (fieldX w) (fieldKk w)

/-- What decoding a list of bytes answers: an instruction and the bytes after it, or a rejection by name. -/
inductive Decoded where
  /-- The first two bytes are an instruction (every instruction is 2 bytes, 30_encoding.md R70). -/
  | instr (i : Instr) (rest : List Byte)
  /-- The first two bytes are an UNRECOGNIZED word (30_encoding.md R77). -/
  | unrecognized (w : Word) (rest : List Byte)
  /-- Fewer than two bytes: no word to decode (30_encoding.md R70). -/
  | truncated
  deriving DecidableEq, Repr

/-- Decoding the bytes as they lie in memory, lowest address first (20_memory.md R54, 30_encoding.md R70). -/
def decodeBytes : List Byte → Decoded
  | hi :: lo :: rest =>
    match decode (wordOfBytes hi lo) with
    | some i => .instr i rest
    | none => .unrecognized (wordOfBytes hi lo) rest
  | _ => .truncated

/-- The word `op nnn`, format FA (30_encoding.md R72). -/
def encodeFA (op : BitVec 4) (nnn : BitVec 12) : Word := BitVec.ofNat 16 (op.toNat * 0x1000 + nnn.toNat)

/-- The word `op x kk`, formats FI and FX (30_encoding.md R72). -/
def encodeFI (op x : BitVec 4) (kk : Byte) : Word :=
  BitVec.ofNat 16 (op.toNat * 0x1000 + x.toNat * 0x100 + kk.toNat)

/-- The word `op x y n`, formats FR and FD (30_encoding.md R72). -/
def encodeFR (op x y n : BitVec 4) : Word :=
  BitVec.ofNat 16 (op.toNat * 0x1000 + x.toNat * 0x100 + y.toNat * 0x10 + n.toNat)

/-- The word of an instruction, from the patterns of 30_encoding.md R75. The ignored `y` of `SHR` and `SHL` is written
as 0 (30_encoding.md R79, log 13). -/
def encode : Instr → Word
  | .cls => 0x00E0
  | .ret => 0x00EE
  | .jp nnn => encodeFA 0x1 nnn
  | .call nnn => encodeFA 0x2 nnn
  | .seVxByte x kk => encodeFI 0x3 x kk
  | .sneVxByte x kk => encodeFI 0x4 x kk
  | .seVxVy x y => encodeFR 0x5 x y 0x0
  | .ldVxByte x kk => encodeFI 0x6 x kk
  | .addVxByte x kk => encodeFI 0x7 x kk
  | .ldVxVy x y => encodeFR 0x8 x y 0x0
  | .orVxVy x y => encodeFR 0x8 x y 0x1
  | .andVxVy x y => encodeFR 0x8 x y 0x2
  | .xorVxVy x y => encodeFR 0x8 x y 0x3
  | .addVxVy x y => encodeFR 0x8 x y 0x4
  | .subVxVy x y => encodeFR 0x8 x y 0x5
  | .shrVx x => encodeFR 0x8 x 0x0 0x6
  | .subnVxVy x y => encodeFR 0x8 x y 0x7
  | .shlVx x => encodeFR 0x8 x 0x0 0xE
  | .sneVxVy x y => encodeFR 0x9 x y 0x0
  | .ldIAddr nnn => encodeFA 0xA nnn
  | .jpV0Addr nnn => encodeFA 0xB nnn
  | .rndVxByte x kk => encodeFI 0xC x kk
  | .drw x y n => encodeFR 0xD x y n
  | .skpVx x => encodeFI 0xE x 0x9E
  | .sknpVx x => encodeFI 0xE x 0xA1
  | .ldVxDt x => encodeFI 0xF x 0x07
  | .ldVxK x => encodeFI 0xF x 0x0A
  | .ldDtVx x => encodeFI 0xF x 0x15
  | .ldStVx x => encodeFI 0xF x 0x18
  | .addIVx x => encodeFI 0xF x 0x1E
  | .ldFVx x => encodeFI 0xF x 0x29
  | .ldBVx x => encodeFI 0xF x 0x33
  | .ldMemVx x => encodeFI 0xF x 0x55
  | .ldVxMem x => encodeFI 0xF x 0x65

/-- The two bytes of an instruction as they lie in memory (20_memory.md R54). -/
def encodeBytes (i : Instr) : List Byte := [wordHi (encode i), wordLo (encode i)]

/-- One row of the opcode map: its number, `match` and `mask` (30_encoding.md R75). -/
structure OpRow where
  num : Nat
  pat : Word
  mask : Word
  deriving DecidableEq, Repr

/-- A word selects a row when `(w & mask) == match` (30_encoding.md R75). -/
def OpRow.selects (r : OpRow) (w : Word) : Bool := w &&& r.mask == r.pat

/-- The opcode map of 30_encoding.md R75, rows 1 to 18. -/
def opcodeRows1to18 : List OpRow := [
  ⟨1, 0x00E0, 0xFFFF⟩, ⟨2, 0x00EE, 0xFFFF⟩, ⟨3, 0x1000, 0xF000⟩, ⟨4, 0x2000, 0xF000⟩, ⟨5, 0x3000, 0xF000⟩,
  ⟨6, 0x4000, 0xF000⟩, ⟨7, 0x5000, 0xF00F⟩, ⟨8, 0x6000, 0xF000⟩, ⟨9, 0x7000, 0xF000⟩, ⟨10, 0x8000, 0xF00F⟩,
  ⟨11, 0x8001, 0xF00F⟩, ⟨12, 0x8002, 0xF00F⟩, ⟨13, 0x8003, 0xF00F⟩, ⟨14, 0x8004, 0xF00F⟩, ⟨15, 0x8005, 0xF00F⟩,
  ⟨16, 0x8006, 0xF00F⟩, ⟨17, 0x8007, 0xF00F⟩, ⟨18, 0x800E, 0xF00F⟩]

/-- The opcode map of 30_encoding.md R75, rows 19 to 34. -/
def opcodeRows19to34 : List OpRow := [
  ⟨19, 0x9000, 0xF00F⟩, ⟨20, 0xA000, 0xF000⟩, ⟨21, 0xB000, 0xF000⟩, ⟨22, 0xC000, 0xF000⟩, ⟨23, 0xD000, 0xF000⟩,
  ⟨24, 0xE09E, 0xF0FF⟩, ⟨25, 0xE0A1, 0xF0FF⟩, ⟨26, 0xF007, 0xF0FF⟩, ⟨27, 0xF00A, 0xF0FF⟩, ⟨28, 0xF015, 0xF0FF⟩,
  ⟨29, 0xF018, 0xF0FF⟩, ⟨30, 0xF01E, 0xF0FF⟩, ⟨31, 0xF029, 0xF0FF⟩, ⟨32, 0xF033, 0xF0FF⟩, ⟨33, 0xF055, 0xF0FF⟩,
  ⟨34, 0xF065, 0xF0FF⟩]

/-- The opcode map of 30_encoding.md R75. -/
def opcodeMap : List OpRow := opcodeRows1to18 ++ opcodeRows19to34

/-- The number of an instruction's row in the opcode map (30_encoding.md R75). -/
def rowNumber : Instr → Nat
  | .cls => 1
  | .ret => 2
  | .jp _ => 3
  | .call _ => 4
  | .seVxByte _ _ => 5
  | .sneVxByte _ _ => 6
  | .seVxVy _ _ => 7
  | .ldVxByte _ _ => 8
  | .addVxByte _ _ => 9
  | .ldVxVy _ _ => 10
  | .orVxVy _ _ => 11
  | .andVxVy _ _ => 12
  | .xorVxVy _ _ => 13
  | .addVxVy _ _ => 14
  | .subVxVy _ _ => 15
  | .shrVx _ => 16
  | .subnVxVy _ _ => 17
  | .shlVx _ => 18
  | .sneVxVy _ _ => 19
  | .ldIAddr _ => 20
  | .jpV0Addr _ => 21
  | .rndVxByte _ _ => 22
  | .drw _ _ _ => 23
  | .skpVx _ => 24
  | .sknpVx _ => 25
  | .ldVxDt _ => 26
  | .ldVxK _ => 27
  | .ldDtVx _ => 28
  | .ldStVx _ => 29
  | .addIVx _ => 30
  | .ldFVx _ => 31
  | .ldBVx _ => 32
  | .ldMemVx _ => 33
  | .ldVxMem _ => 34

/-- The bytes a table word stands for, lowest address first: the word's bits as spec/opcode_table.json numbers them,
laid out big-endian (20_memory.md R54). Every instruction is one 16-bit word, so bits above the row's are 0. -/
def tableWordBytes (nbits w : Nat) : List Byte :=
  [wordHi (BitVec.ofNat 16 (w % 2 ^ nbits)), wordLo (BitVec.ofNat 16 (w % 2 ^ nbits))]

/-- The instruction the decoder reads from an instruction whose bits are `w`, or none where it refuses. -/
def decodeTableWord (nbits w : Nat) : Option Instr :=
  match decodeBytes (tableWordBytes nbits w) with
  | .instr i _ => some i
  | .unrecognized _ _ => none
  | .truncated => none

end Sys2Proof
end

