-- ==== Sys2Proof/Config.lean ====
section
/-! DEFINITION. The configuration the spec leaves open (00_scope.md R8) and the free values (42_alu.md R142,
45_keypad_timers.md R183). What the spec fixes (00_scope.md R7: 4096 bytes of memory, the image at 0x200 and at most 3584
bytes long, 80 font bytes) stands as a type's size or as a numeral where it is used. -/

namespace Sys2Proof

/-- The parameters 00_scope.md R8 leaves open and fixes for a run. State holds one of these (log 1), so a statement
about every state is a statement about every configuration. -/
structure Config where
  /-- `FONT_BASE`, the address of glyph 0; `Config.wf` says `FONT_BASE + 80 <= 0x200`. -/
  fontBase : Nat
  /-- `FONT_DATA`, 16 glyphs of 5 bytes, top row first (20_memory.md R53). -/
  fontData : Vector Byte 80
  /-- `STRICT_DECODE`: an unrecognized word halts (true) or is skipped (false). -/
  strictDecode : Bool
  deriving DecidableEq, Repr

/-- The first eight glyphs of 20_memory.md R53. -/
def Config.glyphs0to7 : Vector Byte 40 := #v[
  0xF0, 0x90, 0x90, 0x90, 0xF0,  0x20, 0x60, 0x20, 0x20, 0x70,
  0xF0, 0x10, 0xF0, 0x80, 0xF0,  0xF0, 0x10, 0xF0, 0x10, 0xF0,
  0x90, 0x90, 0xF0, 0x10, 0x10,  0xF0, 0x80, 0xF0, 0x10, 0xF0,
  0xF0, 0x80, 0xF0, 0x90, 0xF0,  0xF0, 0x10, 0x20, 0x40, 0x40]

/-- The last eight glyphs of 20_memory.md R53. -/
def Config.glyphs8toF : Vector Byte 40 := #v[
  0xF0, 0x90, 0xF0, 0x90, 0xF0,  0xF0, 0x90, 0xF0, 0x10, 0xF0,
  0xF0, 0x90, 0xF0, 0x90, 0x90,  0xE0, 0x90, 0xE0, 0x90, 0xE0,
  0xF0, 0x80, 0x80, 0x80, 0xF0,  0xE0, 0x90, 0x90, 0x90, 0xE0,
  0xF0, 0x80, 0xF0, 0x80, 0xF0,  0xF0, 0x80, 0xF0, 0x80, 0x80]

/-- The defaults of 00_scope.md R8: font at 0x000, the glyph table of 20_memory.md R53 (which the spec marks as general
knowledge, log 2), permissive decode. -/
def Config.default : Config :=
  { fontBase := 0x000, fontData := Config.glyphs0to7 ++ Config.glyphs8toF, strictDecode := false }

/-- FREE VALUE (log 4). `rnd`, the 8-bit draw of one `CXKK` (42_alu.md R142); the argument counts the draws before it. -/
opaque Config.rndDraw : Nat → Byte

/-- FREE VALUE (log 5). The draw behind `key_choice` of one `FX0A` (45_keypad_timers.md R183); `keyChoice` turns it into a
member of the pressed set. The argument counts the draws before it. -/
opaque Config.keyDraw : Nat → Nat

end Sys2Proof
end

