-- ==== Sys2Proof/Machine/State.lean ====
section
/-! DEFINITION. The state of the CORE (10_state.md R20, R43) as plain data, the reasons a step can stop, and the state
right after reset (70_reset_and_hazards.md R230). -/

namespace Sys2Proof.Machine

/-- No step ends in a fault: 60_exceptions.md R202 gives every error of the CORE an effect on the state, the fatal ones
included (status FAULTED), so that no constructor is left to raise. Nobody raises one; safe. -/
inductive Fault where
  deriving DecidableEq, Repr

/-- Why an event has no next state. -/
inductive Refusal where
  /-- Raised by an arm of `exec` whose instruction has no meaning yet. Safe: it answers no state. No arm raises it. -/
  | notModelled (mnemonic : String)
  /-- Raised by a `Reset` event whose image is longer than 3584 bytes; the spec says that no such event is ever issued
  (60_exceptions.md R209, log 10). No instruction raises it. Safe: it answers no state. -/
  | imageTooLong (length : Nat)
  deriving DecidableEq, Repr

/-- `status` (10_state.md R37). -/
inductive Status where
  | running
  | awaitingKey
  | idle
  | faulted
  deriving DecidableEq, Repr

/-- The errors of 60_exceptions.md R201, codes 1 to 8, each with the info its row lists. -/
inductive CoreError where
  | unknownOpcode (w : Word) (pc : Word)
  | stackOverflow (pc : Word)
  | stackUnderflow (pc : Word)
  | boundsViolation (addr : Nat)
  | fontWriteProtect (addr : Nat)
  | keyIndexRange (k : Byte)
  | fetchOutOfBounds (pc : Word)
  | misalignedFetch (pc : Word)
  deriving DecidableEq, Repr

/-- The events that drive the CORE (10_state.md R42, 60_exceptions.md R212 and R214). The draws of a `Step` are free
values (log 4, log 5), so `step` carries none. -/
inductive Event where
  | reset (image : List Byte)
  | keyLatch (keys : BitVec 16)
  | step
  | timerTick
  | frameOut
  deriving DecidableEq, Repr

/-- `FB`: 32 rows of 64 one-bit pixels (10_state.md R36). -/
abbrev FrameBuffer := Vector (Vector Bool 64) 32

/-- The bytes of MEM that differ from what an unlisted address reads as, by address (20_memory.md R50, log 14). -/
abbrev Memory := List Host.Cell

/-- The state of the CORE: the elements of 10_state.md R20, its registered outputs (R43), the inputs of the last Reset
and the configuration (00_scope.md R8), and two fields of the model's own (log 3, log 4). -/
structure State where
  /-- `V[0..15]` (10_state.md R21) -/
  v : Vector Byte 16
  /-- `I` (10_state.md R24) -/
  i : Word
  /-- `PC` (10_state.md R25) -/
  pc : Word
  /-- `DT` (10_state.md R28) -/
  dt : Byte
  /-- `ST` (10_state.md R29) -/
  st : Byte
  /-- `STK[0..15]` (10_state.md R30) -/
  stk : Vector Word 16
  /-- `SP`, the number of entries held (10_state.md R30) -/
  sp : Fin 17
  /-- `KEY[0..15]` (10_state.md R35) -/
  key : Vector Bool 16
  /-- `FB` (10_state.md R36) -/
  fb : FrameBuffer
  /-- `MEM[0..4095]` (20_memory.md R50) -/
  mem : Memory
  /-- `status` (10_state.md R37) -/
  status : Status
  /-- `fault_code` (10_state.md R39) -/
  faultCode : BitVec 4
  /-- `fault_pc` (10_state.md R39) -/
  faultPc : Word
  /-- `errlog` (10_state.md R38) -/
  errlog : BitVec 16
  /-- `err_out` (10_state.md R43), with the error's info fields (60_exceptions.md R201, log 7) -/
  errOut : Option CoreError
  /-- `selfjump_out` (10_state.md R43) -/
  selfJump : Bool
  /-- `ROM_LEN` of the last Reset (00_scope.md R8) -/
  romLen : Fin 3585
  /-- the configuration, fixed for a run (00_scope.md R8, log 1) -/
  cfg : Config
  /-- the model's own: the host's events still to come, next first; none listed means a `Step` comes next (log 3) -/
  pending : List Event
  /-- the model's own: how many draws have been consumed (log 4) -/
  draws : Nat
  deriving DecidableEq, Repr

/-- The machine right after reset (10_state.md R20, 70_reset_and_hazards.md R230) with the default configuration and no
image: a program comes in through a `Reset` event or from outside (log 6). -/
def State.reset : State :=
  { v := Vector.replicate 16 0x00
    i := 0x0000
    pc := 0x0200
    dt := 0x00
    st := 0x00
    stk := Vector.replicate 16 0x0000
    sp := 0
    key := Vector.replicate 16 false
    fb := Vector.replicate 32 (Vector.replicate 64 false)
    mem := []
    status := .running
    faultCode := 0
    faultPc := 0x0000
    errlog := 0x0000
    errOut := none
    selfJump := false
    romLen := 0
    cfg := Config.default
    pending := []
    draws := 0 }

end Sys2Proof.Machine
end

