-- ==== Sys2Proof/Machine/Ops.lean ====
section
/-! DEFINITION. The named operations over memory, registers, stack, pixels and status that the meanings are written with,
and raising an error (60_exceptions.md R202), which every instruction shares. -/

namespace Sys2Proof.Machine

/-! ### Memory (20_memory.md) -/

/-- `a` lies in `[FONT_BASE, FONT_BASE + 80)` (20_memory.md R51, R58). -/
def inFont (c : Config) (a : Nat) : Bool := decide (c.fontBase ≤ a) && decide (a < c.fontBase + 80)

/-- What an address that memory does not list reads as: its reset content without an image, the font or zero
(20_memory.md R51, R52). -/
def Memory.unlisted (c : Config) (a : Nat) : Byte :=
  if c.fontBase ≤ a then (c.fontData[a - c.fontBase]?).getD 0x00 else 0x00

/-- The byte at an address (20_memory.md R59). -/
def Memory.read (c : Config) : Memory → Nat → Byte
  | [], a => Memory.unlisted c a
  | (k, b) :: m, a => if a = k then b else Memory.read c m a

/-- Put a byte in front unless it is what the address reads as anyway; this keeps the canonical form. -/
def Memory.consCell (c : Config) (a : Nat) (b : Byte) (m : Memory) : Memory :=
  if b = Memory.unlisted c a then m else (a, b) :: m

/-- Set the byte at an address (20_memory.md R59), keeping the canonical form. -/
def Memory.write (c : Config) : Memory → Nat → Byte → Memory
  | [], a, b => Memory.consCell c a b []
  | (k, d) :: m, a, b =>
    if a < k then Memory.consCell c a b ((k, d) :: m)
    else if a = k then Memory.consCell c a b m
    else (k, d) :: Memory.write c m a b

/-- Set consecutive bytes from an address up, in increasing order (20_memory.md R56). -/
def Memory.writeList (c : Config) (m : Memory) (a : Nat) : List Byte → Memory
  | [] => m
  | b :: bs => Memory.writeList c (Memory.write c m a b) (a + 1) bs

/-- The cells of an image loaded at an address over the reset contents (20_memory.md R52). -/
def Memory.ofImage (c : Config) : Nat → List Byte → Memory
  | _, [] => []
  | a, b :: bs => Memory.consCell c a b (Memory.ofImage c (a + 1) bs)

/-- The canonical form from address `lo` up: addresses strictly rise and stay below 4096, and no listed byte is what its
address reads as anyway. -/
def Memory.wfFrom (c : Config) : Nat → Memory → Bool
  | _, [] => true
  | lo, (k, b) :: m =>
    decide (lo ≤ k) && decide (k < 4096) && decide (b ≠ Memory.unlisted c k) && Memory.wfFrom c (k + 1) m

/-- The canonical form of memory, so that equal memories are equal data (log 14). -/
def Memory.wf (c : Config) (m : Memory) : Bool := Memory.wfFrom c 0 m

/-- `MemRead(a, 1)` (00_scope.md R11, 20_memory.md R59). -/
def State.readByte (s : State) (a : Nat) : Byte := Memory.read s.cfg s.mem a

/-- `MemWrite(a + k, 1, bs[k])` for each byte in turn (00_scope.md R11, 20_memory.md R56, R59). -/
def State.writeBytes (s : State) (a : Nat) (bs : List Byte) : State :=
  { s with mem := Memory.writeList s.cfg s.mem a bs }

/-- `LOAD_END = 0x200 + ROM_LEN`, the exclusive bound of fetch (00_scope.md R8, 20_memory.md R51). -/
def State.loadEnd (s : State) : Nat := 0x200 + s.romLen.val

/-! ### Registers (10_state.md) -/

/-- `V[x]` (00_scope.md R11, 10_state.md R21). -/
def State.readV (s : State) (x : RegIdx) : Byte := s.v[x.toNat]'x.isLt

/-- `V[x] <- b` (00_scope.md R11, 10_state.md R21). -/
def State.setV (s : State) (x : RegIdx) (b : Byte) : State := { s with v := s.v.set x.toNat b x.isLt }

/-- `VF`, the flag register (00_scope.md R13, 10_state.md R22). -/
def vf : RegIdx := 0xF

/-- `V[x] <- r` and then `VF <- flag`: data first, flag last, so that with `x = F` the flag stays (10_state.md R22). -/
def State.setResultAndFlag (s : State) (x : RegIdx) (r flag : Byte) : State := (s.setV x r).setV vf flag

/-- `V[k] <- f k` for every `k <= x` (43_index_memory.md R155). -/
def State.loadRegs (s : State) (x : RegIdx) (f : Nat → Byte) : State :=
  { s with v := Vector.ofFn (fun k : Fin 16 => if k.val ≤ x.toNat then f k.val else s.v[k]) }

/-- `V[0], …, V[x]` (43_index_memory.md R154). -/
def State.regRange (s : State) (x : RegIdx) : List Byte := s.v.toList.take (x.toNat + 1)

/-- `I <- w` (00_scope.md R11). -/
def State.setI (s : State) (w : Word) : State := { s with i := w }

/-- `DT <- b` (00_scope.md R11). -/
def State.setDt (s : State) (b : Byte) : State := { s with dt := b }

/-- `ST <- b` (00_scope.md R11). -/
def State.setSt (s : State) (b : Byte) : State := { s with st := b }

/-- `FB` replaced whole; only `DXYN` and `00E0` do (10_state.md R36). -/
def State.setFb (s : State) (f : FrameBuffer) : State := { s with fb := f }

/-- One draw consumed: the next `rnd` or `key_choice` is another one (log 4, log 5). -/
def State.countDraw (s : State) : State := { s with draws := s.draws + 1 }

/-! ### Completing an instruction (40_engine_cycle.md R95, R96) -/

/-- `pc <- target`, and the status of a completed instruction that neither waits nor self-jumps. -/
def State.goto (s : State) (target : Word) : State := { s with pc := target, status := .running }

/-- `pc <- PC + 2` (10_state.md R26). -/
def State.advance (s : State) : State := s.goto (s.pc + 2)

/-- A skip: `PC + 4` when the condition holds, else `PC + 2` (10_state.md R26). -/
def State.skipIf (s : State) (c : Bool) : State := s.goto (if c then s.pc + 4 else s.pc + 2)

/-- The self-jump: PC on the jump itself, `selfjump_out <- 1`, status IDLE (41_control_flow.md R110). -/
def State.goIdle (s : State) (target : Word) : State := { s with pc := target, selfJump := true, status := .idle }

/-- `FX0A` with no key pressed: PC stays, status AWAITING_KEY (45_keypad_timers.md R183). -/
def State.awaitKey (s : State) : State := { s with status := .awaitingKey }

/-! ### Errors (60_exceptions.md R201, R202) -/

/-- The code of an error (60_exceptions.md R201). -/
def CoreError.code : CoreError → BitVec 4
  | .unknownOpcode _ _ => 1
  | .stackOverflow _ => 2
  | .stackUnderflow _ => 3
  | .boundsViolation _ => 4
  | .fontWriteProtect _ => 5
  | .keyIndexRange _ => 6
  | .fetchOutOfBounds _ => 7
  | .misalignedFetch _ => 8

/-- Codes 7 and 8 are fatal, and code 1 when `STRICT_DECODE` (60_exceptions.md R202). -/
def CoreError.isFatal (c : Config) : CoreError → Bool
  | .unknownOpcode _ _ => c.strictDecode
  | .stackOverflow _ => false
  | .stackUnderflow _ => false
  | .boundsViolation _ => false
  | .fontWriteProtect _ => false
  | .keyIndexRange _ => false
  | .fetchOutOfBounds _ => true
  | .misalignedFetch _ => true

/-- Bit `c` of `errlog`, for the error of code `c` (10_state.md R38). -/
def CoreError.logBit (e : CoreError) : BitVec 16 := 1#16 <<< e.code.toNat

/-- `signal E`: `errlog <- errlog | (1 << c)`, `err_out <- c` (60_exceptions.md R202, 00_scope.md R12). -/
def State.signal (s : State) (e : CoreError) : State := { s with errlog := s.errlog ||| e.logBit, errOut := some e }

/-- The fatal disposition: `fault_code`, `fault_pc` and FAULTED; PC and all else stay (60_exceptions.md R202). -/
def State.enterFaulted (s : State) (e : CoreError) : State :=
  { s with faultCode := e.code, faultPc := s.pc, status := .faulted }

/-- TAKING AN ERROR, shared by every instruction and by fetch and decode: `raise E` of 60_exceptions.md R202. A non-fatal
error advances PC by 2; from AWAITING_KEY it leaves RUNNING (log 8). There is no return from an error (R205). -/
def State.raise (s : State) (e : CoreError) : State :=
  if e.isFatal s.cfg then (s.signal e).enterFaulted e else (s.signal e).advance

/-! ### The call stack (10_state.md R33, R34) -/

/-- `Push(w)`: none when 16 entries are held (10_state.md R33). -/
def State.push (s : State) (w : Word) : Option State :=
  if h : s.sp.val < 16 then some { s with stk := s.stk.set s.sp.val w h, sp := ⟨s.sp.val + 1, Nat.succ_lt_succ h⟩ }
  else none

/-- The top entry, or the sentinel 0x0000 on an empty stack (10_state.md R30, R34). -/
def State.topOfStack (s : State) : Word := if s.sp.val = 0 then 0x0000 else (s.stk[s.sp.val - 1]?).getD 0x0000

/-- `Pop()` without its value: one entry fewer, or STACK_UNDERFLOW signalled with SP left at 0 (10_state.md R34). -/
def State.pop (s : State) : State :=
  if s.sp.val = 0 then s.signal (.stackUnderflow s.pc)
  else { s with sp := ⟨s.sp.val - 1, Nat.lt_of_le_of_lt (Nat.sub_le _ _) s.sp.isLt⟩ }

/-! ### Pixels (10_state.md R36, 44_display.md R170) -/

/-- `FB[y][x]` (10_state.md R36). -/
def pixelAt (f : FrameBuffer) (x : Fin 64) (y : Fin 32) : Bool := f[y][x]

/-- `FB[y][x] <- FB[y][x] ^ 1` (44_display.md R170). -/
def flipPixel (f : FrameBuffer) (x : Fin 64) (y : Fin 32) : FrameBuffer :=
  f.set y.val (f[y].set x.val (!(pixelAt f x y)) x.isLt) y.isLt

/-- All 2048 pixels 0 (44_display.md R172). -/
def clearFb : FrameBuffer := Vector.replicate 32 (Vector.replicate 64 false)

end Sys2Proof.Machine
end

