-- ==== Sys2Proof/Machine/Operands.lean ====
section
/-! DEFINITION. Operand forms: immediates, effective addresses and their checks, digits, keys and sprites
(30_encoding.md R73; 20_memory.md R57, R58; 43_index_memory.md; 44_display.md R170; 45_keypad_timers.md). -/

namespace Sys2Proof.Machine

/-- `zext_16(nnn)` (30_encoding.md R73). -/
def zextNnn (nnn : BitVec 12) : Word := nnn.setWidth 16

/-- `zext_16(b)` (41_control_flow.md R116). -/
def zextByte (b : Byte) : Word := b.setWidth 16

/-- The target of `BNNN`: `zext_16(nnn) + zext_16(V[0])`, not reduced modulo 4096 (41_control_flow.md R116). -/
def State.offsetTarget (s : State) (nnn : BitVec 12) : Word := zextNnn nnn + zextByte (s.readV 0)

/-- The effective address of byte `k` of a transfer: `I + k` (43_index_memory.md, introduction). -/
def State.effAddr (s : State) (k : Nat) : Nat := s.i.toNat + k

/-- The bounds check of a transfer of `count` bytes from `I`: an address above 0xFFF is BOUNDS_VIOLATION(0x1000), no
byte at all is none (20_memory.md R57; 43_index_memory.md R153 to R155; 44_display.md R171). -/
def State.checkRead (s : State) (count : Nat) : Option CoreError :=
  if 0 < count ∧ s.effAddr (count - 1) > 0xFFF then some (.boundsViolation 0x1000) else none

/-- The first of `count` addresses from `a` up that lies in the font region (20_memory.md R58). -/
def firstProtected (c : Config) (a : Nat) : Nat → Option Nat
  | 0 => none
  | count + 1 => if inFont c a then some a else firstProtected c (a + 1) count

/-- The checks of a store of `count` bytes from `I`: the bounds first, then the font protection
(20_memory.md R57, R58; 60_exceptions.md R203). -/
def State.checkWrite (s : State) (count : Nat) : Option CoreError :=
  match s.checkRead count with
  | some e => some e
  | none => (firstProtected s.cfg (s.effAddr 0) count).map .fontWriteProtect

/-- The three digits of a byte, hundreds first (43_index_memory.md R153). -/
def bcdDigits (b : Byte) : List Byte :=
  [BitVec.ofNat 8 (b.toNat / 100), BitVec.ofNat 8 (b.toNat / 10 % 10), BitVec.ofNat 8 (b.toNat % 10)]

/-- `FONT_BASE + (V[x] & 0xF) * 5` (43_index_memory.md R152). -/
def glyphAddr (c : Config) (b : Byte) : Word := BitVec.ofNat 16 (c.fontBase + (b &&& 0x0F).toNat * 5)

/-- `KEY[k]` (10_state.md R35); a key index above 0xF is rejected before this is read (45_keypad_timers.md R180). -/
def State.keyDown (s : State) (k : Byte) : Bool := (s.key[k.toNat]?).getD false

/-- The check of a key index: above 0x0F it is KEY_INDEX_RANGE (45_keypad_timers.md R180, R181). -/
def checkKey (k : Byte) : Option CoreError := if k.toNat > 0xF then some (.keyIndexRange k) else none

/-- `P`, the set of pressed keys, in increasing order (45_keypad_timers.md R183). -/
def State.pressedKeys (s : State) : List (Fin 16) := (List.finRange 16).filter (fun k => s.key[k])

/-- `key_choice(P)`: a draw made a member of a set that is not empty (45_keypad_timers.md R183, log 5). -/
def keyChoice (draw : Nat) (p : List (Fin 16)) : Fin 16 := p.getD (draw % p.length) 0

/-- `zext_8` of a key code (45_keypad_timers.md R183). -/
def keyCode (k : Fin 16) : Byte := BitVec.ofNat 8 k.val

/-- The pixel of column `ox + c`, row `oy + r`, each reduced by the buffer's dimension (44_display.md R170). -/
def spriteX (ox : Byte) (c : Nat) : Fin 64 := Fin.ofNat 64 (ox.toNat + c)

/-- The row of a sprite pixel (44_display.md R170). -/
def spriteY (oy : Byte) (r : Nat) : Fin 32 := Fin.ofNat 32 (oy.toNat + r)

/-- Toggle one pixel, and note a set pixel that becomes clear (44_display.md R170). -/
def plot (acc : FrameBuffer × Bool) (x : Fin 64) (y : Fin 32) : FrameBuffer × Bool :=
  (flipPixel acc.1 x y, acc.2 || pixelAt acc.1 x y)

/-- One row of a sprite: column offset 0 is the byte's bit 7 (44_display.md R170). -/
def drawRow (b ox oy : Byte) (r : Nat) (acc : FrameBuffer × Bool) : FrameBuffer × Bool :=
  (List.range 8).foldl (fun acc c => if b.getLsbD (7 - c) then plot acc (spriteX ox c) (spriteY oy r) else acc) acc

/-- `DrawSprite(ox, oy, h)`: the new buffer and the collision bit (44_display.md R170). -/
def State.drawSprite (s : State) (ox oy : Byte) (h : Nat) : FrameBuffer × Bool :=
  (List.range h).foldl (fun acc r => drawRow (s.readByte (s.effAddr r)) ox oy r acc) (s.fb, false)

end Sys2Proof.Machine
end

