-- ==== Sys2Proof/Machine/Flags.lean ====
section
/-! DEFINITION. The flag that each flag-defining instruction writes to VF (10_state.md R23; 42_alu.md R130), and the data
results beside it. The collision flag of `DXYN` is the second part of `State.drawSprite`. -/

namespace Sys2Proof.Machine

/-- A comparison written to a register yields 1 for true and 0 for false (00_scope.md R10). -/
def flagByte (c : Bool) : Byte := if c then 1 else 0

/-- The carry of `8XY4`: `a + b > 255` (42_alu.md R137). -/
def carryFlag (a b : Byte) : Byte := flagByte (decide (a.toNat + b.toNat > 255))

/-- The no-borrow of `a - b`: `a >= b` (42_alu.md R138, R140). -/
def noBorrowFlag (a b : Byte) : Byte := flagByte (decide (a.toNat ≥ b.toNat))

/-- The bit a right shift moves out: `a & 1` (42_alu.md R139). -/
def shiftedOutRight (a : Byte) : Byte := a &&& 1

/-- The bit a left shift moves out: `(a >> 7) & 1` (42_alu.md R141). -/
def shiftedOutLeft (a : Byte) : Byte := (a >>> 7) &&& 1

/-- The exact sum of `FX1E`: `I + zext_16(V[x])` (43_index_memory.md R151). -/
def State.indexSum (s : State) (b : Byte) : Nat := s.i.toNat + b.toNat

/-- `s & 0x0FFF` of `FX1E` (43_index_memory.md R151). -/
def indexResult (sum : Nat) : Word := BitVec.ofNat 16 sum &&& 0x0FFF

/-- The 12-bit overflow of `FX1E`: `s > 0x0FFF` (43_index_memory.md R151). -/
def indexOverflow (sum : Nat) : Byte := flagByte (decide (sum > 0x0FFF))

end Sys2Proof.Machine
end

