-- ==== Sys2Proof/Machine/Alu.lean ====
section
/-! DEFINITION. Register arithmetic, logic, shifts and random (42_alu.md). Operands are read from the state before any
write; where a flag is written it is written last (10_state.md R22). -/

namespace Sys2Proof.Machine

/-- `LD Vx, byte` (42_alu.md R131). -/
def execLdVxByte (x : RegIdx) (kk : Byte) (s : State) : Host.Outcome State Fault Refusal :=
  .next (s.setV x kk).advance

/-- `ADD Vx, byte`, no flag (42_alu.md R132). -/
def execAddVxByte (x : RegIdx) (kk : Byte) (s : State) : Host.Outcome State Fault Refusal :=
  .next (s.setV x (s.readV x + kk)).advance

/-- `LD Vx, Vy` (42_alu.md R133). -/
def execLdVxVy (x y : RegIdx) (s : State) : Host.Outcome State Fault Refusal :=
  .next (s.setV x (s.readV y)).advance

/-- `OR Vx, Vy`, no flag (42_alu.md R134). -/
def execOrVxVy (x y : RegIdx) (s : State) : Host.Outcome State Fault Refusal :=
  .next (s.setV x (s.readV x ||| s.readV y)).advance

/-- `AND Vx, Vy`, no flag (42_alu.md R135). -/
def execAndVxVy (x y : RegIdx) (s : State) : Host.Outcome State Fault Refusal :=
  .next (s.setV x (s.readV x &&& s.readV y)).advance

/-- `XOR Vx, Vy`, no flag (42_alu.md R136). -/
def execXorVxVy (x y : RegIdx) (s : State) : Host.Outcome State Fault Refusal :=
  .next (s.setV x (s.readV x ^^^ s.readV y)).advance

/-- `ADD Vx, Vy`: the sum modulo 256, and VF the carry (42_alu.md R137). -/
def execAddVxVy (x y : RegIdx) (s : State) : Host.Outcome State Fault Refusal :=
  .next (s.setResultAndFlag x (s.readV x + s.readV y) (carryFlag (s.readV x) (s.readV y))).advance

/-- `SUB Vx, Vy`: `Vx - Vy` modulo 256, and VF the no-borrow (42_alu.md R138). -/
def execSubVxVy (x y : RegIdx) (s : State) : Host.Outcome State Fault Refusal :=
  .next (s.setResultAndFlag x (s.readV x - s.readV y) (noBorrowFlag (s.readV x) (s.readV y))).advance

/-- `SHR Vx`: one bit right, and VF the bit shifted out (42_alu.md R139). -/
def execShrVx (x : RegIdx) (s : State) : Host.Outcome State Fault Refusal :=
  .next (s.setResultAndFlag x (s.readV x >>> 1) (shiftedOutRight (s.readV x))).advance

/-- `SUBN Vx, Vy`: `Vy - Vx` modulo 256, and VF the no-borrow (42_alu.md R140). -/
def execSubnVxVy (x y : RegIdx) (s : State) : Host.Outcome State Fault Refusal :=
  .next (s.setResultAndFlag x (s.readV y - s.readV x) (noBorrowFlag (s.readV y) (s.readV x))).advance

/-- `SHL Vx`: one bit left, and VF the bit shifted out (42_alu.md R141). -/
def execShlVx (x : RegIdx) (s : State) : Host.Outcome State Fault Refusal :=
  .next (s.setResultAndFlag x (s.readV x <<< 1) (shiftedOutLeft (s.readV x))).advance

/-- `V[x] <- rnd & kk` for a given draw (42_alu.md R142). -/
def State.setRandom (s : State) (rnd : Byte) (x : RegIdx) (kk : Byte) : State := (s.setV x (rnd &&& kk)).countDraw

/-- `RND Vx, byte`: the draw is a free value (42_alu.md R142, log 4). -/
def execRndVxByte (x : RegIdx) (kk : Byte) (s : State) : Host.Outcome State Fault Refusal :=
  .next (s.setRandom (Config.rndDraw s.draws) x kk).advance

end Sys2Proof.Machine
end

