-- ==== Sys2Proof/Machine/Control.lean ====
section
/-! DEFINITION. Control transfer: jump, call, skips, return (41_control_flow.md). -/

namespace Sys2Proof.Machine

/-- `JP addr`: a jump to its own address is the self-jump (41_control_flow.md R110). -/
def execJp (nnn : BitVec 12) (s : State) : Host.Outcome State Fault Refusal :=
  if zextNnn nnn = s.pc then .next (s.goIdle (zextNnn nnn)) else .next (s.goto (zextNnn nnn))

/-- `CALL addr`: `Push(PC + 2)` and jump; with 16 entries held the call is rejected (41_control_flow.md R111). -/
def execCall (nnn : BitVec 12) (s : State) : Host.Outcome State Fault Refusal :=
  match s.push (s.pc + 2) with
  | some t => .next (t.goto (zextNnn nnn))
  | none => .next (s.raise (.stackOverflow s.pc))

/-- `RET`: `pc <- Pop()`, the sentinel 0x0000 on an empty stack (41_control_flow.md R117). -/
def execRet (s : State) : Host.Outcome State Fault Refusal :=
  .next (s.pop.goto s.topOfStack)

/-- `SE Vx, byte` (41_control_flow.md R112). -/
def execSeVxByte (x : RegIdx) (kk : Byte) (s : State) : Host.Outcome State Fault Refusal :=
  .next (s.skipIf (s.readV x == kk))

/-- `SNE Vx, byte` (41_control_flow.md R113). -/
def execSneVxByte (x : RegIdx) (kk : Byte) (s : State) : Host.Outcome State Fault Refusal :=
  .next (s.skipIf (s.readV x != kk))

/-- `SE Vx, Vy` (41_control_flow.md R114). -/
def execSeVxVy (x y : RegIdx) (s : State) : Host.Outcome State Fault Refusal :=
  .next (s.skipIf (s.readV x == s.readV y))

/-- `SNE Vx, Vy` (41_control_flow.md R115). -/
def execSneVxVy (x y : RegIdx) (s : State) : Host.Outcome State Fault Refusal :=
  .next (s.skipIf (s.readV x != s.readV y))

/-- `JP V0, addr` (41_control_flow.md R116); a target equal to its own address is no self-jump. -/
def execJpV0Addr (nnn : BitVec 12) (s : State) : Host.Outcome State Fault Refusal :=
  .next (s.goto (s.offsetTarget nnn))

end Sys2Proof.Machine
end

