-- ==== Sys2Proof/Machine/Display.lean ====
section
/-! DEFINITION. The sprite instructions (44_display.md). -/

namespace Sys2Proof.Machine

/-- `CLS` (44_display.md R172). -/
def execCls (s : State) : Host.Outcome State Fault Refusal :=
  .next (s.setFb clearFb).advance

/-- `DRW Vx, Vy, nibble`: the origin is read before VF is written, and VF is the collision bit (44_display.md R171). -/
def execDrw (x y : RegIdx) (n : BitVec 4) (s : State) : Host.Outcome State Fault Refusal :=
  match s.checkRead n.toNat with
  | some e => .next (s.raise e)
  | none =>
    let drawn := s.drawSprite (s.readV x) (s.readV y) n.toNat
    .next ((s.setFb drawn.1).setV vf (flagByte drawn.2)).advance

end Sys2Proof.Machine
end

