-- ==== Sys2Proof/Machine/Index.lean ====
section
/-! DEFINITION. The index register and memory transfers (43_index_memory.md). Every check comes before the first write
(00_scope.md R12). -/

namespace Sys2Proof.Machine

/-- `LD I, addr` (43_index_memory.md R150). -/
def execLdIAddr (nnn : BitVec 12) (s : State) : Host.Outcome State Fault Refusal :=
  .next (s.setI (zextNnn nnn)).advance

/-- `ADD I, Vx`: the sum modulo 0x1000, and VF the 12-bit overflow (43_index_memory.md R151). -/
def execAddIVx (x : RegIdx) (s : State) : Host.Outcome State Fault Refusal :=
  .next ((s.setI (indexResult (s.indexSum (s.readV x)))).setV vf (indexOverflow (s.indexSum (s.readV x)))).advance

/-- `LD F, Vx` (43_index_memory.md R152). -/
def execLdFVx (x : RegIdx) (s : State) : Host.Outcome State Fault Refusal :=
  .next (s.setI (glyphAddr s.cfg (s.readV x))).advance

/-- `LD B, Vx`: hundreds, tens and ones to I, I + 1, I + 2 (43_index_memory.md R153). -/
def execLdBVx (x : RegIdx) (s : State) : Host.Outcome State Fault Refusal :=
  match s.checkWrite 3 with
  | some e => .next (s.raise e)
  | none => .next (s.writeBytes (s.effAddr 0) (bcdDigits (s.readV x))).advance

/-- `LD [I], Vx`: V0..Vx to I..I+x (43_index_memory.md R154). -/
def execLdMemVx (x : RegIdx) (s : State) : Host.Outcome State Fault Refusal :=
  match s.checkWrite (x.toNat + 1) with
  | some e => .next (s.raise e)
  | none => .next (s.writeBytes (s.effAddr 0) (s.regRange x)).advance

/-- `LD Vx, [I]`: V0..Vx from I..I+x (43_index_memory.md R155). -/
def execLdVxMem (x : RegIdx) (s : State) : Host.Outcome State Fault Refusal :=
  match s.checkRead (x.toNat + 1) with
  | some e => .next (s.raise e)
  | none => .next (s.loadRegs x (fun k => s.readByte (s.effAddr k))).advance

end Sys2Proof.Machine
end

