-- ==== Sys2Proof/Machine/Keypad.lean ====
section
/-! DEFINITION. Keypad and timer instructions (45_keypad_timers.md). -/

namespace Sys2Proof.Machine

/-- `SKP Vx` (45_keypad_timers.md R180). -/
def execSkpVx (x : RegIdx) (s : State) : Host.Outcome State Fault Refusal :=
  match checkKey (s.readV x) with
  | some e => .next (s.raise e)
  | none => .next (s.skipIf (s.keyDown (s.readV x)))

/-- `SKNP Vx` (45_keypad_timers.md R181). -/
def execSknpVx (x : RegIdx) (s : State) : Host.Outcome State Fault Refusal :=
  match checkKey (s.readV x) with
  | some e => .next (s.raise e)
  | none => .next (s.skipIf (!(s.keyDown (s.readV x))))

/-- `LD Vx, DT` (45_keypad_timers.md R182). -/
def execLdVxDt (x : RegIdx) (s : State) : Host.Outcome State Fault Refusal :=
  .next (s.setV x s.dt).advance

/-- `V[x] <- zext_8(key_choice(P))` for a given draw (45_keypad_timers.md R183). -/
def State.takeKey (s : State) (draw : Nat) (x : RegIdx) : State :=
  (s.setV x (keyCode (keyChoice draw s.pressedKeys))).countDraw

/-- `LD Vx, K`: wait on this instruction while no key is pressed; which of several keys is reported is a free value
(45_keypad_timers.md R183, log 5). -/
def execLdVxK (x : RegIdx) (s : State) : Host.Outcome State Fault Refusal :=
  if s.pressedKeys.isEmpty then .next s.awaitKey else .next (s.takeKey (Config.keyDraw s.draws) x).advance

/-- `LD DT, Vx` (45_keypad_timers.md R184). -/
def execLdDtVx (x : RegIdx) (s : State) : Host.Outcome State Fault Refusal :=
  .next (s.setDt (s.readV x)).advance

/-- `LD ST, Vx` (45_keypad_timers.md R185). -/
def execLdStVx (x : RegIdx) (s : State) : Host.Outcome State Fault Refusal :=
  .next (s.setSt (s.readV x)).advance

end Sys2Proof.Machine
end

