-- ==== Sys2Proof/Machine/Cycle.lean ====
section
/-! DEFINITION. The `Step` event: fetch, decode, execute (40_engine_cycle.md R90 to R95). -/

namespace Sys2Proof.Machine

/-- `err_out <- 0 ; selfjump_out <- 0` (40_engine_cycle.md R90). -/
def State.clearOutputs (s : State) : State := { s with errOut := none, selfJump := false }

/-- `Fetch(PC)` (40_engine_cycle.md R93). -/
def State.fetch (s : State) : Word := wordOfBytes (s.readByte s.pc.toNat) (s.readByte (s.pc.toNat + 1))

/-- The checks of a fetch: alignment, then the bound (40_engine_cycle.md R91, R92; 60_exceptions.md R203). -/
def State.checkFetch (s : State) : Option CoreError :=
  if s.pc.getLsbD 0 then some (.misalignedFetch s.pc)
  else if s.pc.toNat + 2 > s.loadEnd then some (.fetchOutOfBounds s.pc)
  else none

/-- Execute a word: its instruction's meaning, or UNKNOWN_OPCODE (40_engine_cycle.md R95, 30_encoding.md R78). -/
def execWord (w : Word) (s : State) : Host.Outcome State Fault Refusal :=
  match decode w with
  | some i => exec i s
  | none => .next (s.raise (.unknownOpcode w s.pc))

/-- Fetch and execute, once the outputs are cleared (40_engine_cycle.md R90). -/
def fetchAndExec (s : State) : Host.Outcome State Fault Refusal :=
  match s.checkFetch with
  | some e => .next (s.raise e)
  | none => execWord s.fetch s

/-- The `Step` event (40_engine_cycle.md R90): in IDLE and FAULTED it only clears the two outputs. -/
def cpuStep (s : State) : Host.Outcome State Fault Refusal :=
  match s.status with
  | .running => fetchAndExec s.clearOutputs
  | .awaitingKey => fetchAndExec s.clearOutputs
  | .idle => .next s.clearOutputs
  | .faulted => .next s.clearOutputs

end Sys2Proof.Machine
end

