-- ==== Sys2Proof/WellFormed.lean ====
section
/-! DEFINITION. The checks on what comes from outside the CORE. An `Instr` needs none: every operand has the width of
its field (30_encoding.md R71), so every term of `Instr` is a well-formed instruction. What can be ill-formed is the
configuration (00_scope.md R8) and the program image (60_exceptions.md R209). -/

namespace Sys2Proof

/-- `FONT_BASE + 80 <= 0x200` (00_scope.md R8, 92_eei_decisions.md D2). -/
def Config.wf (c : Config) : Bool := decide (c.fontBase + 80 ≤ 0x200)

/-- An image fits between 0x200 and 0xFFF (60_exceptions.md R209): `ROM_LEN <= 3584`. -/
def imageWf (image : List Byte) : Bool := decide (image.length ≤ 3584)

end Sys2Proof
end

