-- ==== Sys2Proof/Machine/Events.lean ====
section
/-! DEFINITION. The events other than `Step`, the tick protocol and the outputs (10_state.md R42 to R45; 60_exceptions.md
R210 to R214; 70_reset_and_hazards.md R230). -/

namespace Sys2Proof.Machine

/-- The state of `Reset(image, ROM_LEN)` (70_reset_and_hazards.md R230, 20_memory.md R52), for an image that fits. The
configuration stays (R233), and so do the model's own fields (log 3, log 4). -/
def State.afterReset (s : State) (image : List Byte) (h : image.length < 3585) : State :=
  { State.reset with
    mem := Memory.ofImage s.cfg 0x200 image
    romLen := ⟨image.length, h⟩
    cfg := s.cfg
    pending := s.pending
    draws := s.draws }

/-- The `Reset` event: an image of more than 3584 bytes is refused, since the spec never issues it
(60_exceptions.md R209, log 10). -/
def doReset (image : List Byte) (s : State) : Host.Outcome State Fault Refusal :=
  if h : image.length < 3585 then .next (s.afterReset image h) else .refused (.imageTooLong image.length)

/-- `KeyLatch(keys)`: `KEY[k] <- keys[k]`, in every status (60_exceptions.md R213). -/
def State.keyLatch (s : State) (keys : BitVec 16) : State :=
  { s with key := Vector.ofFn (fun k : Fin 16 => keys.getLsbD k.val) }

/-- One timer down by one unit, saturating at zero (60_exceptions.md R210). -/
def decTimer (t : Byte) : Byte := if t.toNat > 0 then t - 1 else t

/-- `TimerTick`: both timers, but in FAULTED (60_exceptions.md R210, R211). -/
def State.timerTick (s : State) : State :=
  match s.status with
  | .faulted => s
  | .running => { s with dt := decTimer s.dt, st := decTimer s.st }
  | .awaitingKey => { s with dt := decTimer s.dt, st := decTimer s.st }
  | .idle => { s with dt := decTimer s.dt, st := decTimer s.st }

/-- One event of the CORE (10_state.md R42). `FrameOut` changes no state (60_exceptions.md R214). -/
def deliver (e : Event) (s : State) : Host.Outcome State Fault Refusal :=
  match e with
  | .reset image => doReset image s
  | .keyLatch keys => .next (s.keyLatch keys)
  | .step => cpuStep s
  | .timerTick => .next s.timerTick
  | .frameOut => .next s

/-- The event that comes next: the first one pending, or a `Step` when the host has listed none (log 3). -/
def State.nextEvent (s : State) : Event := s.pending.headD .step

/-- The state with its next event taken off the list. -/
def State.takeEvent (s : State) : State := { s with pending := s.pending.tail }

/-- One event: the next one, delivered to the state without it. -/
def runNextEvent (s : State) : Host.Outcome State Fault Refusal := deliver s.nextEvent s.takeEvent

/-- `Tick(keys, K, timer_due, frame_due)`: the events of one tick, in their order (60_exceptions.md R212). -/
def tickEvents (keys : BitVec 16) (k : Nat) (timerDue frameDue : Bool) : List Event :=
  .keyLatch keys :: (List.replicate k .step
    ++ (if timerDue then [.timerTick] else []) ++ (if frameDue then [.frameOut] else []))

/-- The buffer that the next event hands to the rasterizer, when that event is `FrameOut` (60_exceptions.md R214). -/
def State.frameDelivered (s : State) : Option FrameBuffer :=
  match s.nextEvent with
  | .frameOut => some s.fb
  | .reset _ => none
  | .keyLatch _ => none
  | .step => none
  | .timerTick => none

/-- `sound_active = (ST != 0)` (10_state.md R45). -/
def State.soundActive (s : State) : Bool := s.st != 0

/-- `err_out` as a number: the code of the error, or 0 (10_state.md R43, 60_exceptions.md R201). -/
def State.errOutCode (s : State) : BitVec 4 :=
  match s.errOut with
  | some e => e.code
  | none => 0

end Sys2Proof.Machine
end

