-- ==== Sys2Proof/Machine/Step.lean ====
section
/-! DEFINITION. The machine's step, one event (10_state.md R42), and the state in which the next step runs a given word. -/

namespace Sys2Proof.Machine

/-- One event of the CORE: the host's next one, or a `Step` when none is pending (log 3). -/
def step (s : State) : Host.Outcome State Fault Refusal := runNextEvent s

/-- Where a word is placed to be fetched next: PC, or 0x200 when no fetch is possible at PC (log 6). -/
def State.fetchPc (s : State) : Word :=
  if s.pc.getLsbD 0 then 0x0200 else if s.pc.toNat + 2 > 4096 then 0x0200 else s.pc

/-- `ROM_LEN`, raised if need be so that the word at `a` lies within the image bound (log 6). -/
def State.romLenFor (s : State) (a : Nat) : Fin 3585 :=
  if s.loadEnd < a + 2 then Fin.ofNat 3585 (a + 2 - 0x200) else s.romLen

/-- The state with the word stored where the next `Step` fetches, and that `Step` next: no event pending, status RUNNING,
the fetch within bounds (log 6). The bits are those of spec/opcode_table.json, laid out big-endian. -/
def State.withFetchWord (s : State) (nbits w : Nat) : State :=
  { s with
    mem := Memory.writeList s.cfg s.mem s.fetchPc.toNat (tableWordBytes nbits w)
    pc := s.fetchPc
    romLen := s.romLenFor s.fetchPc.toNat
    status := .running
    pending := [] }

end Sys2Proof.Machine
end

