-- ==== Sys2Proof/Safety.lean ====
section
/-! DEFINITION. The terms claims are stated in: which states a run can reach (the invariant), when the engine executes,
what an instruction leaves unchanged (frames), and which registers an instruction writes. -/

namespace Sys2Proof.Machine

/-- The next event is a `Step` (40_engine_cycle.md R90). -/
def StepDue (s : State) : Prop := s.nextEvent = .step

/-- The engine executes: status RUNNING or AWAITING_KEY (10_state.md R37). -/
def Engaged (s : State) : Prop := s.status = .running ∨ s.status = .awaitingKey

/-- A fetch at PC is permitted: PC even and `PC + 2 <= LOAD_END` (40_engine_cycle.md R91, R92). -/
def CanFetch (s : State) : Prop := s.pc.getLsbD 0 = false ∧ s.pc.toNat + 2 ≤ 0x200 + s.romLen.val

/-- The elements of the state other than V, PC and status, for saying what stays unchanged. -/
inductive Element where
  | index
  | delay
  | sound
  | stack
  | keys
  | display
  | memory
  | faultRecord
  | errorLog
  | errorOut
  | selfJumpOut
  | setup
  | pending
  | draws
  deriving DecidableEq, Repr

/-- An element is the same in both states; memory is compared by reading every address. -/
def Element.same (e : Element) (s t : State) : Prop :=
  match e with
  | .index => t.i = s.i
  | .delay => t.dt = s.dt
  | .sound => t.st = s.st
  | .stack => t.stk = s.stk ∧ t.sp = s.sp
  | .keys => t.key = s.key
  | .display => t.fb = s.fb
  | .memory => ∀ a : Nat, t.readByte a = s.readByte a
  | .faultRecord => t.faultCode = s.faultCode ∧ t.faultPc = s.faultPc
  | .errorLog => t.errlog = s.errlog
  | .errorOut => t.errOut = s.errOut
  | .selfJumpOut => t.selfJump = s.selfJump
  | .setup => t.romLen = s.romLen ∧ t.cfg = s.cfg
  | .pending => t.pending = s.pending
  | .draws => t.draws = s.draws

/-- From `s` to `t` every general register but those in `regs`, and every element but those in `els`, is unchanged. -/
def Frame (regs : List RegIdx) (els : List Element) (s t : State) : Prop :=
  (∀ k : RegIdx, k ∉ regs → t.readV k = s.readV k) ∧ ∀ e : Element, e ∉ els → e.same s t

/-- A completed instruction: PC at `target`, status RUNNING, and nothing changed but the registers `regs` and the
elements `els` (40_engine_cycle.md R95). -/
def Completes (target : Word) (regs : List RegIdx) (els : List Element) (s t : State) : Prop :=
  t.pc = target ∧ t.status = .running ∧ Frame regs els s t

/-- A rejected instruction: the non-fatal disposition of 60_exceptions.md R202 and nothing else. -/
def Rejected (e : CoreError) (s t : State) : Prop :=
  t.errlog = s.errlog ||| 1#16 <<< e.code.toNat ∧ t.errOut = some e ∧ Completes (s.pc + 2) [] [.errorLog, .errorOut] s t

/-- A fatal error: FAULTED with its record, PC and all else unchanged (60_exceptions.md R202). -/
def Faults (e : CoreError) (s t : State) : Prop :=
  t.errlog = s.errlog ||| 1#16 <<< e.code.toNat ∧ t.errOut = some e ∧ t.faultCode = e.code ∧ t.faultPc = s.pc
    ∧ t.status = .faulted ∧ t.pc = s.pc ∧ Frame [] [.faultRecord, .errorLog, .errorOut] s t

/-- The state a `Step` starts from: the event taken, the two step outputs cleared (40_engine_cycle.md R90). -/
def stepStart (s : State) : State := { s with pending := s.pending.tail, errOut := none, selfJump := false }

/-- A `Step` from this state raises the fatal error `e` (60_exceptions.md R202). -/
def StepFaults (e : CoreError) (s : State) : Prop :=
  ∃ t : State, cpuStep s = .next t ∧ t.status = .faulted ∧ t.errOut = some e ∧ t.faultPc = s.pc ∧ t.pc = s.pc

/-- The error is one that this instruction raises or signals in this state (60_exceptions.md R201). -/
def raisedBy (e : CoreError) (i : Instr) (s : State) : Prop :=
  match e with
  | .unknownOpcode _ _ => False
  | .stackOverflow p => (∃ nnn, i = .call nnn) ∧ s.sp.val = 16 ∧ p = s.pc
  | .stackUnderflow p => i = .ret ∧ s.sp.val = 0 ∧ p = s.pc
  | .boundsViolation a => a = 0x1000
      ∧ ((∃ x y n, i = .drw x y n ∧ 0 < n.toNat ∧ s.effAddr (n.toNat - 1) > 0xFFF)
        ∨ (∃ x, i = .ldBVx x ∧ s.effAddr 2 > 0xFFF) ∨ (∃ x, i = .ldMemVx x ∧ s.effAddr x.toNat > 0xFFF)
        ∨ ∃ x, i = .ldVxMem x ∧ s.effAddr x.toNat > 0xFFF)
  | .fontWriteProtect a => inFont s.cfg a = true
      ∧ ((∃ x, i = .ldBVx x ∧ s.effAddr 0 ≤ a ∧ a ≤ s.effAddr 2)
        ∨ ∃ x, i = .ldMemVx x ∧ s.effAddr 0 ≤ a ∧ a ≤ s.effAddr x.toNat)
  | .keyIndexRange k => k.toNat > 0xF ∧ ∃ x, k = s.readV x ∧ (i = .skpVx x ∨ i = .sknpVx x)
  | .fetchOutOfBounds _ => False
  | .misalignedFetch _ => False

/-- Two states that differ at most in what no instruction reads: the error record and the stack entries above SP
(10_state.md R30, R38, R39, R41). -/
def SameVisible (s t : State) : Prop :=
  s.v = t.v ∧ s.i = t.i ∧ s.pc = t.pc ∧ s.dt = t.dt ∧ s.st = t.st ∧ s.sp = t.sp ∧ s.key = t.key ∧ s.fb = t.fb
    ∧ s.mem = t.mem ∧ s.status = t.status ∧ s.selfJump = t.selfJump ∧ s.romLen = t.romLen ∧ s.cfg = t.cfg
    ∧ s.pending = t.pending ∧ s.draws = t.draws ∧ ∀ k : Fin 16, k.val < s.sp.val → s.stk[k] = t.stk[k]

/-- Every word that matches the pattern decodes to the instruction its fields give (30_encoding.md R75). -/
def Selects (pat mask : Word) (f : Word → Instr) : Prop := ∀ w : Word, w &&& mask = pat → decode w = some (f w)

/-- The instruction writes general register `k`, as flag or as data, when it is not rejected (10_state.md R23). -/
def writesReg (i : Instr) (k : RegIdx) : Bool :=
  match i with
  | .cls => false
  | .ret => false
  | .jp _ => false
  | .call _ => false
  | .seVxByte _ _ => false
  | .sneVxByte _ _ => false
  | .seVxVy _ _ => false
  | .ldVxByte x _ => k == x
  | .addVxByte x _ => k == x
  | .ldVxVy x _ => k == x
  | .orVxVy x _ => k == x
  | .andVxVy x _ => k == x
  | .xorVxVy x _ => k == x
  | .addVxVy x _ => k == x || k == vf
  | .subVxVy x _ => k == x || k == vf
  | .shrVx x => k == x || k == vf
  | .subnVxVy x _ => k == x || k == vf
  | .shlVx x => k == x || k == vf
  | .sneVxVy _ _ => false
  | .ldIAddr _ => false
  | .jpV0Addr _ => false
  | .rndVxByte x _ => k == x
  | .drw _ _ _ => k == vf
  | .skpVx _ => false
  | .sknpVx _ => false
  | .ldVxDt x => k == x
  | .ldVxK x => k == x
  | .ldDtVx _ => false
  | .ldStVx _ => false
  | .addIVx _ => k == vf
  | .ldFVx _ => false
  | .ldBVx _ => false
  | .ldMemVx _ => false
  | .ldVxMem x => decide (k.toNat ≤ x.toNat)

/-- Sprite bit of row `r`, column offset `c`: bit `7 - c` of the byte at `I + r` (44_display.md R170). -/
def spriteBit (s : State) (r c : Nat) : Bool := (s.readByte (s.i.toNat + r)).getLsbD (7 - c)

/-- A sprite of `n` rows at origin (`ox`, `oy`) toggles pixel (`x`, `y`) (44_display.md R170). -/
def togglesPixel (s : State) (ox oy : Byte) (n : Nat) (x : Fin 64) (y : Fin 32) : Prop :=
  ∃ r : Nat, r < n ∧ ∃ c : Nat, c < 8 ∧ spriteBit s r c = true
    ∧ x.val = (ox.toNat + c) % 64 ∧ y.val = (oy.toNat + r) % 32

/-- The font region reads as `FONT_DATA` (20_memory.md R51, R58). -/
def fontIntact (s : State) : Prop :=
  ∀ k : Fin 80, s.readByte (s.cfg.fontBase + k.val) = s.cfg.fontData[k]

/-- Every return address held is even and at most 0x1000 (41_control_flow.md R111, 10_state.md R26). -/
def stackInRange (s : State) : Prop :=
  ∀ k : Fin 16, k.val < s.sp.val → s.stk[k].toNat ≤ 0x1000 ∧ s.stk[k].toNat % 2 = 0

/-- The word at PC is an instruction on which the status rests, and it can be fetched: `FX0A` for AWAITING_KEY, the
self-jump for IDLE (10_state.md R37). -/
def statusRests (s : State) : Prop :=
  (s.status = .awaitingKey → CanFetch s ∧ ∃ x : RegIdx, decode s.fetch = some (.ldVxK x))
    ∧ (s.status = .idle → CanFetch s ∧ ∃ nnn : BitVec 12, decode s.fetch = some (.jp nnn) ∧ zextNnn nnn = s.pc)

/-- The fault record and the status agree, and only a fatal error is recorded (10_state.md R39, 60_exceptions.md R202). -/
def faultRecordAgrees (s : State) : Prop :=
  (s.status = .faulted ↔ s.faultCode ≠ 0) ∧ (s.faultCode = 0 → s.faultPc = 0)
    ∧ (s.faultCode ≠ 0 → s.faultPc = s.pc ∧ s.errlog.getLsbD s.faultCode.toNat = true)
    ∧ (s.faultCode = 0 ∨ s.faultCode = 7 ∨ s.faultCode = 8 ∨ (s.faultCode = 1 ∧ s.cfg.strictDecode = true))

/-- What holds in every state that a run can reach: memory in canonical form and the font intact, a legal configuration,
I of 12 bits (10_state.md R24), PC at most 0x10FE (R26), return addresses in range, only the codes 1 to 8 recorded
(60_exceptions.md R201), the fault record and the waiting status as the spec says. -/
def Inv (s : State) : Prop :=
  s.cfg.wf = true ∧ Memory.wf s.cfg s.mem = true ∧ fontIntact s ∧ s.i.toNat ≤ 0x0FFF ∧ s.pc.toNat ≤ 0x10FE
    ∧ stackInRange s ∧ s.errlog &&& 0xFE01 = 0 ∧ faultRecordAgrees s ∧ statusRests s
    ∧ (s.selfJump = true → s.status = .idle)
    ∧ (∀ e : CoreError, s.errOut = some e → s.errlog.getLsbD e.code.toNat = true)

end Sys2Proof.Machine
end

