-- ==== Sys2Proof/Certificates/Slice0/Obligations.lean ====
section
/-! DEFINITION. The statements for the provers. Each says in its docstring which rule of spec/ it formalises. Where a
statement speaks of `pending` or of a `Step` that is due, the list of events to come is the model's own field (log 3). The
word pattern in a `Selects` clause is the Encoding line of the rule cited. 30_encoding.md R74 says that the spec takes all
patterns but 6XKK and 7XKK from general knowledge. -/

open Sys2Proof Sys2Proof.Machine

/-! ### Encoding (30_encoding.md) -/

/-- R75, R76: decoding the word of any instruction, and its two bytes followed by anything, gives that instruction back. -/
def Obligations.DecodeOfEncodeIsTheInstruction : Prop :=
  ∀ (i : Instr) (rest : List Byte), decode (encode i) = some i ∧ decodeBytes (encodeBytes i ++ rest) = .instr i rest

/-- R76, R79: a word that decodes is the encoding of what it decodes to, but for the ignored `y` nibble of `SHR` and
`SHL`, which the encoder writes as 0 (log 13). -/
def Obligations.EncodeOfDecodeIsTheWordUpToIgnoredBits : Prop :=
  ∀ (w : Word) (i : Instr), decode w = some i →
    encode i = w ∨ ((∃ x, i = .shrVx x ∨ i = .shlVx x) ∧ encode i = w &&& 0xFF0F)

/-- R75: the opcode map has 34 rows, no word selects two of them, and a word decodes to an instruction exactly when it
selects that instruction's row. (All patterns but 6XKK and 7XKK the spec marks as general knowledge.) -/
def Obligations.DecodingFollowsTheOpcodeMap : Prop :=
  opcodeMap.length = 34
    ∧ (∀ (w : Word) (r r' : OpRow), r ∈ opcodeMap → r' ∈ opcodeMap → w &&& r.mask = r.pat → w &&& r'.mask = r'.pat → r = r')
    ∧ (∀ (w : Word) (i : Instr), decode w = some i → ∃ r ∈ opcodeMap, r.num = rowNumber i ∧ w &&& r.mask = r.pat)
    ∧ ∀ w : Word, decode w = none → ∀ r ∈ opcodeMap, w &&& r.mask ≠ r.pat

/-- R77: the UNRECOGNIZED words, family by family. -/
def Obligations.UnrecognizedWordsAreTheListedFamilies : Prop :=
  ∀ w : Word, decode w = none ↔
    (fieldOp w = 0x0 ∧ w ≠ 0x00E0 ∧ w ≠ 0x00EE)
      ∨ ((fieldOp w = 0x5 ∨ fieldOp w = 0x9) ∧ fieldN w ≠ 0)
      ∨ (fieldOp w = 0x8 ∧ fieldN w ∈ [0x8, 0x9, 0xA, 0xB, 0xC, 0xD, 0xF])
      ∨ (fieldOp w = 0xE ∧ fieldKk w ∉ [0x9E, 0xA1])
      ∨ (fieldOp w = 0xF ∧ fieldKk w ∉ [0x07, 0x0A, 0x15, 0x18, 0x1E, 0x29, 0x33, 0x55, 0x65])

/-- R75, R71: words written out from the opcode map decode to the instructions they stand for, eleven of the 34 rows, and
0123 selects none (the spec marks the patterns but 6XKK and 7XKK as general knowledge). -/
def Obligations.SampleWordsDecode : Prop :=
  decode 0x00E0 = some .cls ∧ decode 0x00EE = some .ret ∧ decode 0x1204 = some (.jp 0x204)
    ∧ decode 0x6005 = some (.ldVxByte 0x0 0x05) ∧ decode 0x7003 = some (.addVxByte 0x0 0x03)
    ∧ decode 0x8124 = some (.addVxVy 0x1 0x2) ∧ decode 0x80F6 = some (.shrVx 0x0)
    ∧ decode 0xA2F0 = some (.ldIAddr 0x2F0) ∧ decode 0xD015 = some (.drw 0x0 0x1 0x5)
    ∧ decode 0xE59E = some (.skpVx 0x5) ∧ decode 0xF265 = some (.ldVxMem 0x2) ∧ decode 0x0123 = none

/-! ### The `Step` event (40_engine_cycle.md) -/

/-- R90, R93, R94, R95: when a `Step` is due, the engine executes, a fetch is permitted and the two bytes at PC decode to
an instruction, the step is that instruction's meaning, from the state with the event taken and both outputs cleared. -/
def Obligations.StepRunsTheDecodedInstruction : Prop :=
  ∀ (s : State) (i : Instr), StepDue s → Engaged s → CanFetch s →
    decodeBytes [s.readByte s.pc.toNat, s.readByte (s.pc.toNat + 1)] = .instr i [] →
    step s = exec i (stepStart s)

/-- R91: a `Step` whose PC is odd raises MISALIGNED_FETCH, which is fatal: FAULTED, PC left unchanged. -/
def Obligations.OddPcFaultsAtFetch : Prop :=
  ∀ s : State, StepDue s → Engaged s → s.pc.toNat % 2 = 1 →
    ∃ t, step s = .next t ∧ Faults (.misalignedFetch s.pc) (stepStart s) t

/-- R92: with PC even, a `Step` with `PC + 2 > LOAD_END` raises FETCH_OUT_OF_BOUNDS, which is fatal; any other fetch, below
0x200 too, is permitted and executes the fetched word. -/
def Obligations.FetchPastTheImageFaults : Prop :=
  ∀ s : State, StepDue s → Engaged s → s.pc.toNat % 2 = 0 →
    (s.pc.toNat + 2 > 0x200 + s.romLen.val →
      ∃ t, step s = .next t ∧ Faults (.fetchOutOfBounds s.pc) (stepStart s) t)
    ∧ (s.pc.toNat + 2 ≤ 0x200 + s.romLen.val →
      step s = execWord (wordOfBytes (s.readByte s.pc.toNat) (s.readByte (s.pc.toNat + 1))) (stepStart s))

/-- R78: an UNRECOGNIZED word raises UNKNOWN_OPCODE(w, PC): skipped with only the log, the output and PC changed, or, when
`STRICT_DECODE`, the engine halts in FAULTED with PC unchanged. -/
def Obligations.UnrecognizedWordIsSkippedOrHalts : Prop :=
  ∀ (s : State) (w : Word), StepDue s → Engaged s → CanFetch s →
    decodeBytes [s.readByte s.pc.toNat, s.readByte (s.pc.toNat + 1)] = .unrecognized w [] →
    (s.cfg.strictDecode = false → ∃ t, step s = .next t ∧ Rejected (.unknownOpcode w s.pc) (stepStart s) t)
      ∧ (s.cfg.strictDecode = true → ∃ t, step s = .next t ∧ Faults (.unknownOpcode w s.pc) (stepStart s) t)

/-- R37, R90, R99: in IDLE and FAULTED a `Step` changes nothing but the two step outputs, which become 0. -/
def Obligations.RestingStepOnlyClearsOutputs : Prop :=
  ∀ s : State, StepDue s → s.status = .idle ∨ s.status = .faulted → step s = .next (stepStart s)

/-- R37, R90: from AWAITING_KEY a `Step` behaves exactly as from RUNNING (for a step with a non-fatal error by log 8). -/
def Obligations.AwaitingKeyStepsAsRunning : Prop :=
  ∀ s : State, StepDue s → step { s with status := .awaitingKey } = step { s with status := .running }

/-- R99: what the outputs report at the end of a `Step`: `err_out` the error it recorded in `errlog`, or none and `errlog`
unchanged; `selfjump_out` is 1 exactly when the step executed a self-jump; in IDLE and FAULTED both are 0. -/
def Obligations.OutputsReportTheStep : Prop :=
  ∀ s t : State, StepDue s → step s = .next t →
    (t.errOut = none → t.errlog = s.errlog)
      ∧ (∀ e, t.errOut = some e → t.errlog = s.errlog ||| 1#16 <<< e.code.toNat)
      ∧ (s.status = .idle ∨ s.status = .faulted → t.errOut = none ∧ t.selfJump = false)
      ∧ (t.selfJump = true ↔ Engaged s ∧ CanFetch s ∧ ∃ nnn : BitVec 12, decode s.fetch = some (.jp nnn) ∧ nnn.toNat = s.pc.toNat)

/-- The model's own promise (log 6): after `withFetchWord` the very next step runs that word's instruction, from any state
whose memory is in canonical form. -/
def Obligations.PlacedWordRunsNext : Prop :=
  ∀ (s : State) (w : Nat) (i : Instr), Memory.wf s.cfg s.mem = true → decodeTableWord 16 w = some i →
    step (s.withFetchWord 16 w) = exec i (stepStart (s.withFetchWord 16 w))

/-! ### Whole-machine rules over all instructions -/

/-- R12, R97, R202: every instruction in every state answers a next state; nothing is refused and nothing stops. -/
def Obligations.EveryInstructionAnswersANextState : Prop :=
  ∀ (i : Instr) (s : State), ∃ t, exec i s = .next t

/-- R95, R202: no instruction raises a fatal error; it leaves RUNNING (after a non-fatal error by log 8), or AWAITING_KEY
(`FX0A` with no key pressed), or IDLE (a self-jump). -/
def Obligations.StatusAfterAnInstruction : Prop :=
  ∀ (i : Instr) (s t : State), exec i s = .next t →
    (t.status = .awaitingKey ∧ (∃ x, i = .ldVxK x) ∧ ∀ k : Fin 16, s.key[k] = false)
      ∨ (t.status = .idle ∧ ∃ nnn : BitVec 12, i = .jp nnn ∧ nnn.toNat = s.pc.toNat)
      ∨ (t.status = .running ∧ ¬ ((∃ x, i = .ldVxK x) ∧ ∀ k : Fin 16, s.key[k] = false)
        ∧ ¬ ∃ nnn : BitVec 12, i = .jp nnn ∧ nnn.toNat = s.pc.toNat)

/-- R26, R96: every instruction that does not write PC itself leaves `PC + 2`, or `PC + 4` when it is a skip, or PC when it
is `FX0A` waiting. -/
def Obligations.PcAdvancesByTwoUnlessItSkipsWaitsOrJumps : Prop :=
  ∀ (i : Instr) (s t : State), exec i s = .next t →
    (∃ nnn, i = .jp nnn) ∨ (∃ nnn, i = .call nnn) ∨ (∃ nnn, i = .jpV0Addr nnn) ∨ i = .ret
      ∨ t.pc = s.pc + 2
      ∨ (t.pc = s.pc + 4 ∧ ((∃ x kk, i = .seVxByte x kk) ∨ (∃ x kk, i = .sneVxByte x kk) ∨ (∃ x y, i = .seVxVy x y)
        ∨ (∃ x y, i = .sneVxVy x y) ∨ (∃ x, i = .skpVx x) ∨ ∃ x, i = .sknpVx x))
      ∨ (t.pc = s.pc ∧ (∃ x, i = .ldVxK x) ∧ t.status = .awaitingKey)

/-- R22, R23, R21: a general register changes only when the instruction writes it: as the flag VF of the seven
flag-defining instructions, or as the destination. -/
def Obligations.RegistersChangeOnlyAsDestinations : Prop :=
  ∀ (i : Instr) (s t : State), exec i s = .next t → ∀ k : RegIdx, writesReg i k = false → t.readV k = s.readV k

/-- R24, R28, R29, R32, R35, R36, R39: which instructions may change each other element; the keypad, the configuration and
the fault record no instruction changes. (`draws` and `pending` are the model's own fields, log 3 and log 4.) -/
def Obligations.EachElementHasItsWriters : Prop :=
  ∀ (i : Instr) (s t : State), exec i s = .next t →
    (t.i ≠ s.i → (∃ nnn, i = .ldIAddr nnn) ∨ (∃ x, i = .addIVx x) ∨ ∃ x, i = .ldFVx x)
      ∧ (t.dt ≠ s.dt → ∃ x, i = .ldDtVx x)
      ∧ (t.st ≠ s.st → ∃ x, i = .ldStVx x)
      ∧ ((t.sp ≠ s.sp ∨ t.stk ≠ s.stk) → i = .ret ∨ ∃ nnn, i = .call nnn)
      ∧ (t.fb ≠ s.fb → i = .cls ∨ ∃ x y n, i = .drw x y n)
      ∧ (t.selfJump ≠ s.selfJump → ∃ nnn, i = .jp nnn)
      ∧ (t.draws ≠ s.draws → (∃ x kk, i = .rndVxByte x kk) ∨ ∃ x, i = .ldVxK x)
      ∧ t.key = s.key ∧ t.romLen = s.romLen ∧ t.cfg = s.cfg ∧ t.pending = s.pending
      ∧ t.faultCode = s.faultCode ∧ t.faultPc = s.faultPc

/-- R50, R57, R58, R59: memory changes only by `FX33` at I..I+2 and by `FX55` at I..I+x, never above 0xFFF and never in the
font region; every other byte reads as before, and the canonical form is kept. -/
def Obligations.MemoryChangesOnlyByStoresOutsideTheFont : Prop :=
  ∀ (i : Instr) (s t : State), Memory.wf s.cfg s.mem = true → exec i s = .next t →
    Memory.wf t.cfg t.mem = true ∧ ∀ a : Nat, t.readByte a ≠ s.readByte a →
      a ≤ 0xFFF ∧ ¬ (s.cfg.fontBase ≤ a ∧ a < s.cfg.fontBase + 80)
        ∧ ((∃ x, i = .ldBVx x ∧ s.effAddr 0 ≤ a ∧ a ≤ s.effAddr 2)
          ∨ ∃ x, i = .ldMemVx x ∧ s.effAddr 0 ≤ a ∧ a ≤ s.effAddr x.toNat)

/-- R201, R203: an instruction records at most one error, one that its rule names, in the state that rule names. -/
def Obligations.ErrorsComeFromTheirInstructions : Prop :=
  ∀ (i : Instr) (s t : State), exec i s = .next t →
    (t.errlog = s.errlog ∧ t.errOut = s.errOut)
      ∨ ∃ e, raisedBy e i s ∧ t.errOut = some e ∧ t.errlog = s.errlog ||| 1#16 <<< e.code.toNat

/-- R97, R202: when an instruction raises an error (any but the signalled STACK_UNDERFLOW), the only effects are PC + 2, the
log and the output. -/
def Obligations.RejectedInstructionHasNoOtherEffect : Prop :=
  ∀ (i : Instr) (s t : State) (e : CoreError), s.errOut = none → exec i s = .next t → t.errOut = some e →
    (∀ p, e ≠ .stackUnderflow p) → Rejected e s t

/-- R30, R38, R39, R41: the error record and the stack entries above SP are never read: two states that differ only there
take steps of the same kind to states that differ only there. -/
def Obligations.ErrorRecordAndStaleEntriesAreNeverRead : Prop :=
  ∀ s s' : State, SameVisible s s' →
    (∀ t, step s = .next t → ∃ t', step s' = .next t' ∧ SameVisible t t')
      ∧ ∀ r, step s = .refused r → step s' = .refused r

/-! ### Control transfer (41_control_flow.md) -/

/-- R110: `JP addr`; after the self-jump no instruction executes, and the timers keep counting. -/
def Obligations.JumpWritesItsTargetAndASelfJumpIdles : Prop :=
  Selects 0x1000 0xF000 (fun w => .jp (fieldNnn w))
    ∧ ∀ (nnn : BitVec 12) (s : State),
      (nnn.toNat ≠ s.pc.toNat → ∃ t, exec (.jp nnn) s = .next t ∧ t.pc.toNat = nnn.toNat ∧ Completes t.pc [] [] s t
        ∧ (nnn.toNat % 2 = 1 → StepFaults (.misalignedFetch t.pc) t)
        ∧ (nnn.toNat % 2 = 0 → nnn.toNat + 2 > 0x200 + s.romLen.val → StepFaults (.fetchOutOfBounds t.pc) t))
      ∧ (nnn.toNat = s.pc.toNat → ∃ t, exec (.jp nnn) s = .next t ∧ t.pc = s.pc ∧ t.status = .idle ∧ t.selfJump = true
        ∧ Frame [] [.selfJumpOut] s t
        ∧ (∃ u, cpuStep t = .next u ∧ u.pc = t.pc ∧ u.status = .idle ∧ Frame [] [.errorOut, .selfJumpOut] t u)
        ∧ t.timerTick.dt.toNat = t.dt.toNat - 1 ∧ t.timerTick.st.toNat = t.st.toNat - 1)

/-- R111, R33: `CALL addr`. -/
def Obligations.CallPushesTheReturnAddressOrIsRejected : Prop :=
  Selects 0x2000 0xF000 (fun w => .call (fieldNnn w))
    ∧ ∀ (nnn : BitVec 12) (s : State),
      (s.sp.val < 16 → ∃ t, exec (.call nnn) s = .next t ∧ t.sp.val = s.sp.val + 1
        ∧ (∀ k : Fin 16, t.stk[k] = if k.val = s.sp.val then s.pc + 2 else s.stk[k])
        ∧ t.pc.toNat = nnn.toNat ∧ Completes t.pc [] [.stack] s t)
      ∧ (s.sp.val = 16 → ∃ t, exec (.call nnn) s = .next t ∧ Rejected (.stackOverflow s.pc) s t)

/-- R117, R34: `RET`. -/
def Obligations.ReturnPopsOrSignalsUnderflow : Prop :=
  Selects 0x00EE 0xFFFF (fun _ => .ret)
    ∧ ∀ s : State,
      (∀ k : Fin 16, s.sp.val = k.val + 1 → ∃ t, exec .ret s = .next t ∧ t.sp.val = k.val ∧ t.stk = s.stk
        ∧ Completes s.stk[k] [] [.stack] s t)
      ∧ (s.sp.val = 0 → ∃ t, exec .ret s = .next t ∧ t.errlog = s.errlog ||| 0x0008
        ∧ t.errOut = some (.stackUnderflow s.pc) ∧ Completes 0x0000 [] [.errorLog, .errorOut] s t)

/-- R111, R117, R31: a call followed at once by a return comes back behind the call, for every depth that has room, with
the entries below untouched. -/
def Obligations.CallThenReturnComesBack : Prop :=
  ∀ (nnn : BitVec 12) (s : State), s.sp.val < 16 →
    ∃ t u, exec (.call nnn) s = .next t ∧ exec .ret t = .next u ∧ u.sp = s.sp
      ∧ (∀ k : Fin 16, k.val < s.sp.val → u.stk[k] = s.stk[k]) ∧ Completes (s.pc + 2) [] [.stack] s u

/-- R112, R113: the skips against an immediate. -/
def Obligations.SkipsAgainstAnImmediate : Prop :=
  Selects 0x3000 0xF000 (fun w => .seVxByte (fieldX w) (fieldKk w))
    ∧ Selects 0x4000 0xF000 (fun w => .sneVxByte (fieldX w) (fieldKk w))
    ∧ ∀ (x : RegIdx) (kk : Byte) (s : State),
      (∃ t, exec (.seVxByte x kk) s = .next t ∧ Completes (if s.readV x = kk then s.pc + 4 else s.pc + 2) [] [] s t)
      ∧ ∃ t, exec (.sneVxByte x kk) s = .next t ∧ Completes (if s.readV x = kk then s.pc + 2 else s.pc + 4) [] [] s t

/-- R114, R115: the skips between registers. -/
def Obligations.SkipsBetweenRegisters : Prop :=
  Selects 0x5000 0xF00F (fun w => .seVxVy (fieldX w) (fieldY w))
    ∧ Selects 0x9000 0xF00F (fun w => .sneVxVy (fieldX w) (fieldY w))
    ∧ (∀ w : Word, (fieldOp w = 0x5 ∨ fieldOp w = 0x9) → fieldN w ≠ 0 → decode w = none)
    ∧ ∀ (x y : RegIdx) (s : State),
      (∃ t, exec (.seVxVy x y) s = .next t
        ∧ Completes (if s.readV x = s.readV y then s.pc + 4 else s.pc + 2) [] [] s t)
      ∧ ∃ t, exec (.sneVxVy x y) s = .next t
        ∧ Completes (if s.readV x = s.readV y then s.pc + 2 else s.pc + 4) [] [] s t

/-- R116: `JP V0, addr`; the sum is exact, and a target that is its own address is no self-jump. -/
def Obligations.JumpWithOffsetAddsV0Exactly : Prop :=
  Selects 0xB000 0xF000 (fun w => .jpV0Addr (fieldNnn w))
    ∧ ∀ (nnn : BitVec 12) (s : State), ∃ t, exec (.jpV0Addr nnn) s = .next t
      ∧ t.pc.toNat = nnn.toNat + (s.readV 0).toNat ∧ Completes t.pc [] [] s t
      ∧ (t.pc.toNat % 2 = 1 → StepFaults (.misalignedFetch t.pc) t)
      ∧ (t.pc.toNat % 2 = 0 → t.pc.toNat + 2 > 0x200 + s.romLen.val → StepFaults (.fetchOutOfBounds t.pc) t)

/-! ### Register arithmetic (42_alu.md) -/

/-- R131, R132: loading and adding an immediate; no flag, VF changed only as the destination. -/
def Obligations.LoadAndAddImmediate : Prop :=
  Selects 0x6000 0xF000 (fun w => .ldVxByte (fieldX w) (fieldKk w))
    ∧ Selects 0x7000 0xF000 (fun w => .addVxByte (fieldX w) (fieldKk w))
    ∧ ∀ (x : RegIdx) (kk : Byte) (s : State),
      (∃ t, exec (.ldVxByte x kk) s = .next t ∧ t.readV x = kk ∧ Completes (s.pc + 2) [x] [] s t)
      ∧ ∃ t, exec (.addVxByte x kk) s = .next t ∧ (t.readV x).toNat = ((s.readV x).toNat + kk.toNat) % 256
        ∧ Completes (s.pc + 2) [x] [] s t

/-- R133, R134, R135, R136: move, OR, AND, XOR; no flag, VF changed only as the destination. -/
def Obligations.MoveAndBitwiseWriteNoFlag : Prop :=
  Selects 0x8000 0xF00F (fun w => .ldVxVy (fieldX w) (fieldY w))
    ∧ Selects 0x8001 0xF00F (fun w => .orVxVy (fieldX w) (fieldY w))
    ∧ Selects 0x8002 0xF00F (fun w => .andVxVy (fieldX w) (fieldY w))
    ∧ Selects 0x8003 0xF00F (fun w => .xorVxVy (fieldX w) (fieldY w))
    ∧ ∀ (x y : RegIdx) (s : State),
      (∃ t, exec (.ldVxVy x y) s = .next t ∧ t.readV x = s.readV y ∧ Completes (s.pc + 2) [x] [] s t)
      ∧ (∃ t, exec (.orVxVy x y) s = .next t ∧ Completes (s.pc + 2) [x] [] s t
        ∧ ∀ b : Nat, (t.readV x).getLsbD b = ((s.readV x).getLsbD b || (s.readV y).getLsbD b))
      ∧ (∃ t, exec (.andVxVy x y) s = .next t ∧ Completes (s.pc + 2) [x] [] s t
        ∧ ∀ b : Nat, (t.readV x).getLsbD b = ((s.readV x).getLsbD b && (s.readV y).getLsbD b))
      ∧ ∃ t, exec (.xorVxVy x y) s = .next t ∧ Completes (s.pc + 2) [x] [] s t
        ∧ ∀ b : Nat, (t.readV x).getLsbD b = ((s.readV x).getLsbD b != (s.readV y).getLsbD b)

/-- R137: register-register add, with `x = F`, `y = F` and `x = y` included: the flag is written last. -/
def Obligations.AddWritesSumThenCarry : Prop :=
  Selects 0x8004 0xF00F (fun w => .addVxVy (fieldX w) (fieldY w))
    ∧ ∀ (x y : RegIdx) (s : State), ∃ t, exec (.addVxVy x y) s = .next t
      ∧ (x ≠ 0xF → (t.readV x).toNat = ((s.readV x).toNat + (s.readV y).toNat) % 256)
      ∧ t.readV 0xF = (if (s.readV x).toNat + (s.readV y).toNat > 255 then 1 else 0)
      ∧ Completes (s.pc + 2) [x, 0xF] [] s t

/-- R138, R140: subtract and reverse subtract, with the no-borrow flag written last. -/
def Obligations.SubtractWritesDifferenceThenNoBorrow : Prop :=
  Selects 0x8005 0xF00F (fun w => .subVxVy (fieldX w) (fieldY w))
    ∧ Selects 0x8007 0xF00F (fun w => .subnVxVy (fieldX w) (fieldY w))
    ∧ ∀ (x y : RegIdx) (s : State),
      (∃ t, exec (.subVxVy x y) s = .next t
        ∧ (x ≠ 0xF → (t.readV x).toNat = ((s.readV x).toNat + 256 - (s.readV y).toNat) % 256)
        ∧ t.readV 0xF = (if (s.readV x).toNat ≥ (s.readV y).toNat then 1 else 0)
        ∧ Completes (s.pc + 2) [x, 0xF] [] s t)
      ∧ ∃ t, exec (.subnVxVy x y) s = .next t
        ∧ (x ≠ 0xF → (t.readV x).toNat = ((s.readV y).toNat + 256 - (s.readV x).toNat) % 256)
        ∧ t.readV 0xF = (if (s.readV y).toNat ≥ (s.readV x).toNat then 1 else 0)
        ∧ Completes (s.pc + 2) [x, 0xF] [] s t

/-- R139, R141: shifts by one of V[x], whatever the `y` field holds, with the bit shifted out, taken before the shift,
written to VF last. -/
def Obligations.ShiftWritesResultThenBitShiftedOut : Prop :=
  Selects 0x8006 0xF00F (fun w => .shrVx (fieldX w))
    ∧ Selects 0x800E 0xF00F (fun w => .shlVx (fieldX w))
    ∧ ∀ (x : RegIdx) (s : State),
      (∃ t, exec (.shrVx x) s = .next t ∧ (x ≠ 0xF → (t.readV x).toNat = (s.readV x).toNat / 2)
        ∧ (t.readV 0xF).toNat = (s.readV x).toNat % 2 ∧ Completes (s.pc + 2) [x, 0xF] [] s t)
      ∧ ∃ t, exec (.shlVx x) s = .next t ∧ (x ≠ 0xF → (t.readV x).toNat = (s.readV x).toNat * 2 % 256)
        ∧ (t.readV 0xF).toNat = (s.readV x).toNat / 128 ∧ Completes (s.pc + 2) [x, 0xF] [] s t

/-- R142: `RND` masks the draw of this execution, a free value (log 4): the register is the draw AND the immediate,
whatever the draw, and the draw is consumed. -/
def Obligations.RandomMasksItsDraw : Prop :=
  Selects 0xC000 0xF000 (fun w => .rndVxByte (fieldX w) (fieldKk w))
    ∧ ∀ (x : RegIdx) (kk : Byte) (s : State), ∃ t, exec (.rndVxByte x kk) s = .next t
      ∧ t.readV x = Config.rndDraw s.draws &&& kk ∧ (kk = 0 → t.readV x = 0)
      ∧ t.draws = s.draws + 1 ∧ Completes (s.pc + 2) [x] [.draws] s t

/-! ### Index register and memory transfers (43_index_memory.md) -/

/-- R150: `LD I, addr`. -/
def Obligations.LoadIndexWritesTheAddress : Prop :=
  Selects 0xA000 0xF000 (fun w => .ldIAddr (fieldNnn w))
    ∧ ∀ (nnn : BitVec 12) (s : State), ∃ t, exec (.ldIAddr nnn) s = .next t ∧ t.i.toNat = nnn.toNat
      ∧ Completes (s.pc + 2) [] [.index] s t

/-- R151: `ADD I, Vx`: the sum modulo 0x1000, and VF the 12-bit overflow; with `x = F` the addend is the old VF. -/
def Obligations.AddToIndexWrapsAndFlagsOverflow : Prop :=
  Selects 0xF01E 0xF0FF (fun w => .addIVx (fieldX w))
    ∧ ∀ (x : RegIdx) (s : State), ∃ t, exec (.addIVx x) s = .next t
      ∧ t.i.toNat = (s.i.toNat + (s.readV x).toNat) % 0x1000
      ∧ t.readV 0xF = (if s.i.toNat + (s.readV x).toNat > 0x0FFF then 1 else 0)
      ∧ Completes (s.pc + 2) [0xF] [.index] s t

/-- R152: `LD F, Vx`, under a legal configuration: the glyph of the low nibble, always in range. -/
def Obligations.LoadFontWritesTheGlyphAddress : Prop :=
  Selects 0xF029 0xF0FF (fun w => .ldFVx (fieldX w))
    ∧ ∀ (x : RegIdx) (s : State), s.cfg.wf = true → ∃ t, exec (.ldFVx x) s = .next t
      ∧ t.i.toNat = s.cfg.fontBase + (s.readV x).toNat % 16 * 5 ∧ t.i.toNat ≤ s.cfg.fontBase + 75
      ∧ Completes (s.pc + 2) [] [.index] s t

/-- R153: `LD B, Vx`: the three digits, hundreds first, from I up; past 0xFFF or into the font it is rejected whole. The
address stored to is `s.effAddr 0`. -/
def Obligations.BcdStoresThreeDigitsOrIsRejected : Prop :=
  Selects 0xF033 0xF0FF (fun w => .ldBVx (fieldX w))
    ∧ ∀ (x : RegIdx) (s : State),
      (s.i.toNat > 0x0FFD → ∃ t, exec (.ldBVx x) s = .next t ∧ Rejected (.boundsViolation 0x1000) s t)
      ∧ (∀ f : Nat, s.i.toNat ≤ 0x0FFD → s.effAddr 0 ≤ f → f < s.effAddr 3 → inFont s.cfg f = true →
        (∀ a, s.effAddr 0 ≤ a → a < f → inFont s.cfg a = false) →
        ∃ t, exec (.ldBVx x) s = .next t ∧ Rejected (.fontWriteProtect f) s t)
      ∧ (Memory.wf s.cfg s.mem = true → s.i.toNat ≤ 0x0FFD →
        (∀ a, s.effAddr 0 ≤ a → a < s.effAddr 3 → inFont s.cfg a = false) →
        ∃ t, exec (.ldBVx x) s = .next t
          ∧ (t.readByte (s.effAddr 0)).toNat = (s.readV x).toNat / 100
          ∧ (t.readByte (s.effAddr 1)).toNat = (s.readV x).toNat / 10 % 10
          ∧ (t.readByte (s.effAddr 2)).toNat = (s.readV x).toNat % 10
          ∧ (∀ a, ¬ (s.effAddr 0 ≤ a ∧ a < s.effAddr 3) → t.readByte a = s.readByte a)
          ∧ Completes (s.pc + 2) [] [.memory] s t)

/-- R154: `LD [I], Vx`: V0..Vx to I..I+x, I unchanged; past 0xFFF or into the font it is rejected whole. -/
def Obligations.StoreRangeWritesV0ToVxOrIsRejected : Prop :=
  Selects 0xF055 0xF0FF (fun w => .ldMemVx (fieldX w))
    ∧ ∀ (x : RegIdx) (s : State),
      (s.effAddr x.toNat > 0x0FFF → ∃ t, exec (.ldMemVx x) s = .next t ∧ Rejected (.boundsViolation 0x1000) s t)
      ∧ (∀ f : Nat, s.effAddr x.toNat ≤ 0x0FFF → s.effAddr 0 ≤ f → f ≤ s.effAddr x.toNat → inFont s.cfg f = true →
        (∀ a, s.effAddr 0 ≤ a → a < f → inFont s.cfg a = false) →
        ∃ t, exec (.ldMemVx x) s = .next t ∧ Rejected (.fontWriteProtect f) s t)
      ∧ (Memory.wf s.cfg s.mem = true → s.effAddr x.toNat ≤ 0x0FFF →
        (∀ a, s.effAddr 0 ≤ a → a ≤ s.effAddr x.toNat → inFont s.cfg a = false) →
        ∃ t, exec (.ldMemVx x) s = .next t
          ∧ (∀ k : RegIdx, k.toNat ≤ x.toNat → t.readByte (s.effAddr k.toNat) = s.readV k)
          ∧ (∀ a, ¬ (s.effAddr 0 ≤ a ∧ a ≤ s.effAddr x.toNat) → t.readByte a = s.readByte a)
          ∧ Completes (s.pc + 2) [] [.memory] s t)

/-- R155: `LD Vx, [I]`: V0..Vx from I..I+x, every other register and I unchanged; past 0xFFF it is rejected whole. -/
def Obligations.LoadRangeReadsV0ToVxOrIsRejected : Prop :=
  Selects 0xF065 0xF0FF (fun w => .ldVxMem (fieldX w))
    ∧ ∀ (x : RegIdx) (s : State),
      (s.effAddr x.toNat > 0x0FFF → ∃ t, exec (.ldVxMem x) s = .next t ∧ Rejected (.boundsViolation 0x1000) s t)
      ∧ (s.effAddr x.toNat ≤ 0x0FFF → ∃ t, exec (.ldVxMem x) s = .next t
        ∧ (∀ k : RegIdx, t.readV k = if k.toNat ≤ x.toNat then s.readByte (s.effAddr k.toNat) else s.readV k)
        ∧ t.pc = s.pc + 2 ∧ t.status = .running ∧ ∀ e : Element, e.same s t)

/-! ### Display (44_display.md) -/

/-- R172: `CLS`. -/
def Obligations.ClearZeroesEveryPixel : Prop :=
  Selects 0x00E0 0xFFFF (fun _ => .cls)
    ∧ ∀ s : State, ∃ t, exec .cls s = .next t ∧ (∀ x y, pixelAt t.fb x y = false)
      ∧ Completes (s.pc + 2) [] [.display] s t

/-- R170, R171: `DRW` toggles exactly the pixels of the sprite's set bits, each reduced by the buffer's dimensions, from the
origin read before VF is written, and VF says whether a set pixel was toggled; past 0xFFF it is rejected whole. (That
column offset 0 is bit 7, and that `n` is the height, the spec marks as general knowledge.) -/
def Obligations.DrawTogglesItsPixelsAndReportsCollision : Prop :=
  Selects 0xD000 0xF000 (fun w => .drw (fieldX w) (fieldY w) (fieldN w))
    ∧ ∀ (x y : RegIdx) (n : BitVec 4) (s : State),
      (0 < n.toNat → s.effAddr (n.toNat - 1) > 0x0FFF →
        ∃ t, exec (.drw x y n) s = .next t ∧ Rejected (.boundsViolation 0x1000) s t)
      ∧ (n.toNat = 0 ∨ s.effAddr (n.toNat - 1) ≤ 0x0FFF → ∃ t, exec (.drw x y n) s = .next t
        ∧ (∀ px py, togglesPixel s (s.readV x) (s.readV y) n.toNat px py → pixelAt t.fb px py = !(pixelAt s.fb px py))
        ∧ (∀ px py, ¬ togglesPixel s (s.readV x) (s.readV y) n.toNat px py → pixelAt t.fb px py = pixelAt s.fb px py)
        ∧ ((∃ px py, togglesPixel s (s.readV x) (s.readV y) n.toNat px py ∧ pixelAt s.fb px py = true) →
          t.readV 0xF = 1)
        ∧ ((∀ px py, togglesPixel s (s.readV x) (s.readV y) n.toNat px py → pixelAt s.fb px py = false) →
          t.readV 0xF = 0)
        ∧ Completes (s.pc + 2) [0xF] [.display] s t)

/-- R173: drawing the same sprite at the same origin twice gives the buffer back, and the second VF is 1 exactly when the
first draw turned some pixel from 0 to 1. (Where x or y is F, the origin is the same when VF happens to be.) -/
def Obligations.DrawingTwiceRestoresTheBuffer : Prop :=
  ∀ (x y : RegIdx) (n : BitVec 4) (s t : State), (n.toNat = 0 ∨ s.effAddr (n.toNat - 1) ≤ 0x0FFF) →
    exec (.drw x y n) s = .next t → t.readV x = s.readV x → t.readV y = s.readV y →
    ∃ u, exec (.drw x y n) t = .next u ∧ u.fb = s.fb
      ∧ ((∃ px py, pixelAt s.fb px py = false ∧ pixelAt t.fb px py = true) → u.readV 0xF = 1)
      ∧ ((∀ px py, pixelAt s.fb px py = false → pixelAt t.fb px py = false) → u.readV 0xF = 0)

/-! ### Keypad and timer instructions (45_keypad_timers.md) -/

/-- R180, R181: the key skips; a key index above 0x0F is rejected and does not skip. -/
def Obligations.KeySkipsTestTheLatchedKey : Prop :=
  Selects 0xE09E 0xF0FF (fun w => .skpVx (fieldX w))
    ∧ Selects 0xE0A1 0xF0FF (fun w => .sknpVx (fieldX w))
    ∧ ∀ (x : RegIdx) (s : State),
      ((s.readV x).toNat > 0xF →
        (∃ t, exec (.skpVx x) s = .next t ∧ Rejected (.keyIndexRange (s.readV x)) s t)
        ∧ ∃ t, exec (.sknpVx x) s = .next t ∧ Rejected (.keyIndexRange (s.readV x)) s t)
      ∧ ∀ k : Fin 16, (s.readV x).toNat = k.val →
        (∃ t, exec (.skpVx x) s = .next t ∧ Completes (if s.key[k] = true then s.pc + 4 else s.pc + 2) [] [] s t)
        ∧ ∃ t, exec (.sknpVx x) s = .next t ∧ Completes (if s.key[k] = true then s.pc + 2 else s.pc + 4) [] [] s t

/-- R183: `LD Vx, K` waits on itself while no key is pressed; otherwise it reports one of the pressed keys, whichever the
draw (a free value, log 5) picks, and every pressed key is the choice of some draw. -/
def Obligations.KeyWaitReportsAPressedKey : Prop :=
  Selects 0xF00A 0xF0FF (fun w => .ldVxK (fieldX w))
    ∧ ∀ (x : RegIdx) (s : State),
      ((∀ k : Fin 16, s.key[k] = false) → ∃ t, exec (.ldVxK x) s = .next t ∧ t.pc = s.pc ∧ t.status = .awaitingKey
        ∧ Frame [] [] s t)
      ∧ ((∃ k : Fin 16, s.key[k] = true) → ∃ t, exec (.ldVxK x) s = .next t
        ∧ (∃ k : Fin 16, s.key[k] = true ∧ (t.readV x).toNat = k.val)
        ∧ Completes (s.pc + 2) [x] [.draws] s t)
      ∧ ∀ k : Fin 16, s.key[k] = true → ∃ draw : Nat, keyChoice draw s.pressedKeys = k

/-- R182, R184, R185, R45: reading and setting the timers; the sound is active exactly while ST is not 0. -/
def Obligations.TimerInstructionsMoveTheirTimer : Prop :=
  Selects 0xF007 0xF0FF (fun w => .ldVxDt (fieldX w))
    ∧ Selects 0xF015 0xF0FF (fun w => .ldDtVx (fieldX w))
    ∧ Selects 0xF018 0xF0FF (fun w => .ldStVx (fieldX w))
    ∧ ∀ (x : RegIdx) (s : State),
      (∃ t, exec (.ldVxDt x) s = .next t ∧ t.readV x = s.dt ∧ Completes (s.pc + 2) [x] [] s t)
      ∧ (∃ t, exec (.ldDtVx x) s = .next t ∧ t.dt = s.readV x ∧ Completes (s.pc + 2) [] [.delay] s t)
      ∧ ∃ t, exec (.ldStVx x) s = .next t ∧ t.st = s.readV x ∧ (t.soundActive = true ↔ (s.readV x).toNat ≠ 0)
        ∧ Completes (s.pc + 2) [] [.sound] s t

/-! ### The other events (60_exceptions.md, 70_reset_and_hazards.md) -/

/-- R210, R211: `TimerTick` lowers both timers by one, each saturating at 0, in every status but FAULTED, and changes
nothing else. -/
def Obligations.TimerTickLowersBothTimers : Prop :=
  ∀ (s : State) (rest : List Event), s.pending = .timerTick :: rest →
    ∃ t, step s = .next t ∧ t.pending = rest ∧ t.pc = s.pc ∧ t.status = s.status
      ∧ (s.status = .faulted → t.dt = s.dt ∧ t.st = s.st)
      ∧ (s.status ≠ .faulted → t.dt.toNat = s.dt.toNat - 1 ∧ t.st.toNat = s.st.toNat - 1)
      ∧ Frame [] [.delay, .sound, .pending] s t

/-- R213: `KeyLatch` sets each key flag from its bit, in every status, and changes nothing else; no event but it and `Reset`
changes a key flag; a tick's events hold it once, before the steps. -/
def Obligations.KeyLatchSetsEveryKey : Prop :=
  (∀ (s : State) (keys : BitVec 16) (rest : List Event), s.pending = .keyLatch keys :: rest →
    ∃ t, step s = .next t ∧ t.pending = rest ∧ t.pc = s.pc ∧ t.status = s.status
      ∧ (∀ k : Fin 16, t.key[k] = keys.getLsbD k.val) ∧ Frame [] [.keys, .pending] s t)
    ∧ (∀ s t : State, step s = .next t → (∀ keys, s.nextEvent ≠ .keyLatch keys) → (∀ image, s.nextEvent ≠ .reset image) →
      t.key = s.key)
    ∧ ∀ (keys : BitVec 16) (k : Nat) (timerDue frameDue : Bool), ∃ es,
      tickEvents keys k timerDue frameDue = .keyLatch keys :: es ∧ ∀ keys', .keyLatch keys' ∉ es

/-- R214: `FrameOut` delivers the current buffer and changes no state; no other event delivers one. -/
def Obligations.FrameOutDeliversTheBufferUnchanged : Prop :=
  (∀ (s : State) (rest : List Event), s.pending = .frameOut :: rest →
    s.frameDelivered = some s.fb ∧ step s = .next { s with pending := rest })
    ∧ ∀ s : State, s.nextEvent ≠ .frameOut → s.frameDelivered = none

/-- R212: a tick's events, one after another: the keys are latched first and stay for all K steps, then the timers fall when
the decrement is due, and the buffer handed out is the one after all of that; the steps never stop the tick. (That keys
are latched at the start of a tick is the spec's own choice.) -/
def Obligations.TickLatchesKeysThenStepsThenTimers : Prop :=
  ∀ (s : State) (keys : BitVec 16) (k : Nat) (timerDue frameDue : Bool) (rest : List Event),
    s.pending = tickEvents keys k timerDue frameDue ++ rest →
    ∃ u : State, Sys2Proof.core.run (1 + k) s = .next u
      ∧ (∀ j : Fin 16, u.key[j] = keys.getLsbD j.val)
      ∧ Sys2Proof.core.run (1 + k + timerDue.toNat + frameDue.toNat) s
        = .next { (if timerDue then u.timerTick else u) with pending := rest }
      ∧ (frameDue = true → ∀ t : State, Sys2Proof.core.run (1 + k + timerDue.toNat) s = .next t → t.frameDelivered = some u.fb)

/-- R210, R215: n timer ticks in a row take each timer down by n, to 0 at the least (60 ticks take a timer from 60 to 0),
unless the engine is FAULTED. -/
def Obligations.TimerTicksCountDownToZero : Prop :=
  ∀ (n : Nat) (s : State) (rest : List Event), s.status ≠ .faulted →
    s.pending = List.replicate n .timerTick ++ rest →
    ∃ t : State, Sys2Proof.core.run n s = .next t ∧ t.dt.toNat = s.dt.toNat - n ∧ t.st.toNat = s.st.toNat - n

/-- R20, R230: the values the spec gives for the state right after reset, with the font in memory. (No image and the default
configuration are the model's choice, log 6 and log 1; the font's bytes the spec marks as general knowledge, log 2.) -/
def Obligations.ResetStateHoldsTheSpecifiedValues : Prop :=
  (∀ x : RegIdx, State.reset.readV x = 0x00) ∧ State.reset.i = 0x0000 ∧ State.reset.pc = 0x0200
    ∧ State.reset.dt = 0x00 ∧ State.reset.st = 0x00 ∧ State.reset.sp.val = 0
    ∧ (∀ k : Fin 16, State.reset.stk[k] = 0x0000) ∧ (∀ k : Fin 16, State.reset.key[k] = false)
    ∧ (∀ x y, pixelAt State.reset.fb x y = false) ∧ State.reset.status = .running
    ∧ State.reset.faultCode = 0 ∧ State.reset.faultPc = 0x0000 ∧ State.reset.errlog = 0x0000
    ∧ State.reset.errOut = none ∧ State.reset.selfJump = false
    ∧ ∀ a : Nat, State.reset.readByte a = if h : a < 80 then Config.default.fontData[a] else 0x00

/-- R230, R52, R233: `Reset(image, ROM_LEN)` from any state: every element at its reset value, memory zero but for the font and
the image at 0x200, `LOAD_END` behind the image, the configuration kept. -/
def Obligations.ResetEventInitialisesEverything : Prop :=
  ∀ (s : State) (image : List Byte) (rest : List Event), s.pending = .reset image :: rest → image.length ≤ 3584 →
    s.cfg.wf = true →
    ∃ t, step s = .next t ∧ t.loadEnd = 0x200 + image.length
      ∧ (∀ a : Nat, t.readByte a =
        if h : s.cfg.fontBase ≤ a ∧ a < s.cfg.fontBase + 80 then s.cfg.fontData[a - s.cfg.fontBase]
        else if h : 0x200 ≤ a ∧ a < 0x200 + image.length then image[a - 0x200] else 0x00)
      ∧ (∀ x : RegIdx, t.readV x = 0x00) ∧ t.i = 0x0000 ∧ t.pc = 0x0200 ∧ t.dt = 0 ∧ t.st = 0
      ∧ (∀ k : Fin 16, t.stk[k] = 0x0000) ∧ t.sp.val = 0 ∧ (∀ k : Fin 16, t.key[k] = false)
      ∧ (∀ x y, pixelAt t.fb x y = false)
      ∧ t.status = .running ∧ t.faultCode = 0 ∧ t.faultPc = 0x0000 ∧ t.errlog = 0x0000
      ∧ t.errOut = none ∧ t.selfJump = false ∧ t.cfg = s.cfg ∧ t.pending = rest

/-- R209 (the model's refusal, log 10): a `Reset` with more than 3584 bytes answers no state, and it is the only event of
the CORE that does not. -/
def Obligations.OnlyAnOversizeResetIsRefused : Prop :=
  (∀ (s : State) (image : List Byte) (rest : List Event), s.pending = .reset image :: rest → image.length > 3584 →
    step s = .refused (.imageTooLong image.length))
    ∧ ∀ s : State, (∀ image, s.nextEvent = .reset image → image.length ≤ 3584) → ∃ t, step s = .next t

/-! ### What every step keeps -/

/-- The invariant holds right after reset. -/
def Obligations.ReachableStateInvariantAtReset : Prop := Inv State.reset

/-- Every event keeps the invariant: memory canonical and the font intact (R58), I of 12 bits (R24), PC at most 0x10FE (R26),
at most 16 return addresses, even and at most 0x1000 (R31), only codes 1 to 8 logged (R201), the fault record in step
with FAULTED (R39), and the waiting statuses resting on their instruction (R37). -/
def Obligations.EveryStepKeepsTheInvariant : Prop :=
  ∀ s t : State, Inv s → step s = .next t → Inv t

/-- R233: no event changes the configuration, and only a `Reset` changes `LOAD_END`. -/
def Obligations.OnlyResetChangesTheLoadBound : Prop :=
  ∀ s t : State, step s = .next t →
    t.cfg = s.cfg ∧ ((∀ image, s.nextEvent ≠ .reset image) → t.loadEnd = s.loadEnd)

/-- R38: no event but `Reset` clears a bit of `errlog`. -/
def Obligations.OnlyResetClearsTheErrorLog : Prop :=
  ∀ s t : State, step s = .next t → (∀ image, s.nextEvent ≠ .reset image) →
    ∀ b : Nat, s.errlog.getLsbD b = true → t.errlog.getLsbD b = true

/-- R37, R205, R216: only a `Reset` leaves IDLE or FAULTED, and meanwhile no register, no memory byte, no pixel and no PC
changes. -/
def Obligations.OnlyResetLeavesIdleAndFaulted : Prop :=
  ∀ s t : State, s.status = .idle ∨ s.status = .faulted → step s = .next t → (∀ image, s.nextEvent ≠ .reset image) →
    t.status = s.status ∧ t.pc = s.pc
      ∧ Frame [] [.delay, .sound, .keys, .errorOut, .selfJumpOut, .pending] s t
end

