-- ==== Sys2Proof/Laws/Memory.lean ====
section
/-! SUPPORT. Memory: the canonical form is kept by every operation, and a read after a write (20_memory.md R56, R59). -/

namespace Sys2Proof.Machine.Memory

variable {c : Config}

theorem wfFrom_cons {lo k : Nat} {b : Byte} {m : Memory} :
    wfFrom c lo ((k, b) :: m) = true ↔ lo ≤ k ∧ k < 4096 ∧ b ≠ unlisted c k ∧ wfFrom c (k + 1) m = true := by
  simp only [wfFrom, Bool.and_eq_true, decide_eq_true_eq, and_assoc]

theorem wfFrom_mono {lo lo' : Nat} {m : Memory} (h : wfFrom c lo m = true) (hl : lo' ≤ lo) :
    wfFrom c lo' m = true := by
  cases m with
  | nil => rfl
  | cons cell m =>
    obtain ⟨k, b⟩ := cell
    rw [wfFrom_cons] at h ⊢
    exact ⟨by omega, h.2⟩

/-- Below the first listed address every byte reads as an unlisted one. -/
theorem read_below {lo a : Nat} {m : Memory} (h : wfFrom c lo m = true) (ha : a < lo) : read c m a = unlisted c a := by
  induction m generalizing lo with
  | nil => rfl
  | cons cell m ih =>
    obtain ⟨k, b⟩ := cell
    rw [wfFrom_cons] at h
    simp only [read]
    rw [if_neg (by omega)]
    exact ih h.2.2.2 (by omega)

theorem wfFrom_consCell {lo a : Nat} {b : Byte} {m : Memory} (h : wfFrom c (a + 1) m = true) (hl : lo ≤ a)
    (ha : a < 4096) : wfFrom c lo (consCell c a b m) = true := by
  unfold consCell
  split
  · exact wfFrom_mono h (by omega)
  · exact wfFrom_cons.mpr ⟨hl, ha, by assumption, h⟩

theorem read_consCell {a a' : Nat} {b : Byte} {m : Memory} (h : wfFrom c (a + 1) m = true) :
    read c (consCell c a b m) a' = if a' = a then b else read c m a' := by
  unfold consCell
  split
  · split
    · subst_vars; exact read_below h (by omega)
    · rfl
  · rfl

/-- A write keeps the canonical form. -/
theorem wfFrom_write {lo a : Nat} {b : Byte} {m : Memory} (h : wfFrom c lo m = true) (hl : lo ≤ a) (ha : a < 4096) :
    wfFrom c lo (write c m a b) = true := by
  induction m generalizing lo with
  | nil => exact wfFrom_consCell rfl hl ha
  | cons cell m ih =>
    obtain ⟨k, d⟩ := cell
    have hk := wfFrom_cons.mp h
    simp only [write]
    split
    · exact wfFrom_consCell (wfFrom_cons.mpr ⟨by omega, hk.2⟩) hl ha
    · split
      · subst_vars; exact wfFrom_consCell hk.2.2.2 hl ha
      · exact wfFrom_cons.mpr ⟨hk.1, hk.2.1, hk.2.2.1, ih hk.2.2.2 (by omega)⟩

/-- A read after a write: the written byte at its address, the old byte elsewhere. -/
theorem read_write_from {lo a a' : Nat} {b : Byte} {m : Memory} (h : wfFrom c lo m = true) :
    read c (write c m a b) a' = if a' = a then b else read c m a' := by
  induction m generalizing lo with
  | nil => exact read_consCell rfl
  | cons cell m ih =>
    obtain ⟨k, d⟩ := cell
    have hk := wfFrom_cons.mp h
    simp only [write]
    split
    · exact read_consCell (wfFrom_cons.mpr ⟨by omega, hk.2⟩)
    · split
      · subst_vars
        rw [read_consCell hk.2.2.2]
        simp only [read]
        split <;> rfl
      · simp only [read, ih hk.2.2.2]
        split
        · rw [if_neg (by omega)]
        · rfl

theorem wf_write {a : Nat} {b : Byte} {m : Memory} (h : wf c m = true) (ha : a < 4096) :
    wf c (write c m a b) = true := wfFrom_write h (by omega) ha

theorem read_write {a a' : Nat} {b : Byte} {m : Memory} (h : wf c m = true) :
    read c (write c m a b) a' = if a' = a then b else read c m a' := read_write_from h

/-- Consecutive writes keep the canonical form while they stay inside the address space. -/
theorem wf_writeList {a : Nat} {bs : List Byte} {m : Memory} (h : wf c m = true) (ha : a + bs.length ≤ 4096) :
    wf c (writeList c m a bs) = true := by
  induction bs generalizing a m with
  | nil => exact h
  | cons b bs ih =>
    rw [List.length_cons] at ha
    exact ih (wf_write h (by omega)) (by omega)

/-- A read after consecutive writes: the byte written there, or the old byte outside them. -/
theorem read_writeList {a a' : Nat} {bs : List Byte} {m : Memory} (h : wf c m = true)
    (ha : a + bs.length ≤ 4096) :
    read c (writeList c m a bs) a' =
      if a ≤ a' ∧ a' < a + bs.length then (bs[a' - a]?).getD 0x00 else read c m a' := by
  induction bs generalizing a m with
  | nil => rw [if_neg (by simp)]; rfl
  | cons b bs ih =>
    rw [List.length_cons] at ha
    simp only [writeList, List.length_cons]
    rw [ih (wf_write h (by omega)) (by omega), read_write h]
    by_cases h1 : a' = a
    · subst h1; simp
    · by_cases h2 : a ≤ a' ∧ a' < a + (bs.length + 1)
      · rw [if_pos h2, if_pos ⟨by omega, by omega⟩]
        obtain ⟨j, rfl⟩ : ∃ j, a' = a + 1 + j := ⟨a' - (a + 1), by omega⟩
        have e1 : a + 1 + j - (a + 1) = j := by omega
        have e2 : a + 1 + j - a = j + 1 := by omega
        rw [e1, e2, List.getElem?_cons_succ]
      · rw [if_neg h2, if_neg (by omega), if_neg h1]

theorem wfFrom_ofImage {a : Nat} {bs : List Byte} (ha : a + bs.length ≤ 4096) :
    wfFrom c a (ofImage c a bs) = true := by
  induction bs generalizing a with
  | nil => rfl
  | cons b bs ih =>
    rw [List.length_cons] at ha
    exact wfFrom_consCell (ih (by omega)) (by omega) (by omega)

/-- The memory of a loaded image is in canonical form. -/
theorem wf_ofImage {a : Nat} {bs : List Byte} (ha : a + bs.length ≤ 4096) : wf c (ofImage c a bs) = true :=
  wfFrom_mono (wfFrom_ofImage ha) (by omega)

/-- The memory of a loaded image reads as the image where it lies, and as the reset contents elsewhere. -/
theorem read_ofImage {a a' : Nat} {bs : List Byte} (ha : a + bs.length ≤ 4096) :
    read c (ofImage c a bs) a' =
      if a ≤ a' ∧ a' < a + bs.length then (bs[a' - a]?).getD 0x00 else unlisted c a' := by
  induction bs generalizing a with
  | nil => rw [if_neg (by simp)]; rfl
  | cons b bs ih =>
    rw [List.length_cons] at ha
    simp only [ofImage, List.length_cons]
    rw [read_consCell (wfFrom_ofImage (by omega)), ih (by omega)]
    by_cases h1 : a' = a
    · subst h1; simp
    · by_cases h2 : a ≤ a' ∧ a' < a + (bs.length + 1)
      · rw [if_neg h1, if_pos h2, if_pos ⟨by omega, by omega⟩]
        obtain ⟨j, rfl⟩ : ∃ j, a' = a + 1 + j := ⟨a' - (a + 1), by omega⟩
        have e1 : a + 1 + j - (a + 1) = j := by omega
        have e2 : a + 1 + j - a = j + 1 := by omega
        rw [e1, e2, List.getElem?_cons_succ]
      · rw [if_neg h1, if_neg h2, if_neg (by omega)]

theorem inFont_iff {a : Nat} : inFont c a = true ↔ c.fontBase ≤ a ∧ a < c.fontBase + 80 := by
  simp only [inFont, Bool.and_eq_true, decide_eq_true_eq]

/-- Outside the font region an unlisted address reads as zero (20_memory.md R51, R52). -/
theorem unlisted_outside {a : Nat} (h : inFont c a = false) : unlisted c a = 0 := by
  have h' : ¬ (c.fontBase ≤ a ∧ a < c.fontBase + 80) := by
    intro hc
    simp [inFont_iff.mpr hc] at h
  unfold unlisted
  split
  · rw [Vector.getElem?_eq_none (by omega)]; rfl
  · rfl

/-- Inside the font region an unlisted address reads as its glyph byte (20_memory.md R52). -/
theorem unlisted_font (k : Fin 80) : unlisted c (c.fontBase + k.val) = c.fontData[k] := by
  simp [unlisted]

end Sys2Proof.Machine.Memory
end

