-- ==== Sys2Proof/Laws/State.lean ====
section
/-! SUPPORT. What each update of the state does to each field, so that no proof unfolds an update. Each update's lemmas
stand together: the fields it sets, then the fields it keeps. -/

namespace Sys2Proof.Machine.State

variable (s : State)

/-! ### setV -/

@[simp] theorem setV_v (x : RegIdx) (b : Byte) : (s.setV x b).v = s.v.set x.toNat b x.isLt := rfl
@[simp] theorem setV_i (x : RegIdx) (b : Byte) : (s.setV x b).i = s.i := rfl
@[simp] theorem setV_pc (x : RegIdx) (b : Byte) : (s.setV x b).pc = s.pc := rfl
@[simp] theorem setV_dt (x : RegIdx) (b : Byte) : (s.setV x b).dt = s.dt := rfl
@[simp] theorem setV_st (x : RegIdx) (b : Byte) : (s.setV x b).st = s.st := rfl
@[simp] theorem setV_stk (x : RegIdx) (b : Byte) : (s.setV x b).stk = s.stk := rfl
@[simp] theorem setV_sp (x : RegIdx) (b : Byte) : (s.setV x b).sp = s.sp := rfl
@[simp] theorem setV_key (x : RegIdx) (b : Byte) : (s.setV x b).key = s.key := rfl
@[simp] theorem setV_fb (x : RegIdx) (b : Byte) : (s.setV x b).fb = s.fb := rfl
@[simp] theorem setV_mem (x : RegIdx) (b : Byte) : (s.setV x b).mem = s.mem := rfl
@[simp] theorem setV_status (x : RegIdx) (b : Byte) : (s.setV x b).status = s.status := rfl
@[simp] theorem setV_faultCode (x : RegIdx) (b : Byte) : (s.setV x b).faultCode = s.faultCode := rfl
@[simp] theorem setV_faultPc (x : RegIdx) (b : Byte) : (s.setV x b).faultPc = s.faultPc := rfl
@[simp] theorem setV_errlog (x : RegIdx) (b : Byte) : (s.setV x b).errlog = s.errlog := rfl
@[simp] theorem setV_errOut (x : RegIdx) (b : Byte) : (s.setV x b).errOut = s.errOut := rfl
@[simp] theorem setV_selfJump (x : RegIdx) (b : Byte) : (s.setV x b).selfJump = s.selfJump := rfl
@[simp] theorem setV_romLen (x : RegIdx) (b : Byte) : (s.setV x b).romLen = s.romLen := rfl
@[simp] theorem setV_cfg (x : RegIdx) (b : Byte) : (s.setV x b).cfg = s.cfg := rfl
@[simp] theorem setV_pending (x : RegIdx) (b : Byte) : (s.setV x b).pending = s.pending := rfl
@[simp] theorem setV_draws (x : RegIdx) (b : Byte) : (s.setV x b).draws = s.draws := rfl

/-! ### setResultAndFlag -/

@[simp] theorem setResultAndFlag_v (x : RegIdx) (r f : Byte) : (s.setResultAndFlag x r f).v = ((s.setV x r).setV vf f).v := rfl
@[simp] theorem setResultAndFlag_i (x : RegIdx) (r f : Byte) : (s.setResultAndFlag x r f).i = s.i := rfl
@[simp] theorem setResultAndFlag_pc (x : RegIdx) (r f : Byte) : (s.setResultAndFlag x r f).pc = s.pc := rfl
@[simp] theorem setResultAndFlag_dt (x : RegIdx) (r f : Byte) : (s.setResultAndFlag x r f).dt = s.dt := rfl
@[simp] theorem setResultAndFlag_st (x : RegIdx) (r f : Byte) : (s.setResultAndFlag x r f).st = s.st := rfl
@[simp] theorem setResultAndFlag_stk (x : RegIdx) (r f : Byte) : (s.setResultAndFlag x r f).stk = s.stk := rfl
@[simp] theorem setResultAndFlag_sp (x : RegIdx) (r f : Byte) : (s.setResultAndFlag x r f).sp = s.sp := rfl
@[simp] theorem setResultAndFlag_key (x : RegIdx) (r f : Byte) : (s.setResultAndFlag x r f).key = s.key := rfl
@[simp] theorem setResultAndFlag_fb (x : RegIdx) (r f : Byte) : (s.setResultAndFlag x r f).fb = s.fb := rfl
@[simp] theorem setResultAndFlag_mem (x : RegIdx) (r f : Byte) : (s.setResultAndFlag x r f).mem = s.mem := rfl
@[simp] theorem setResultAndFlag_status (x : RegIdx) (r f : Byte) : (s.setResultAndFlag x r f).status = s.status := rfl
@[simp] theorem setResultAndFlag_faultCode (x : RegIdx) (r f : Byte) : (s.setResultAndFlag x r f).faultCode = s.faultCode := rfl
@[simp] theorem setResultAndFlag_faultPc (x : RegIdx) (r f : Byte) : (s.setResultAndFlag x r f).faultPc = s.faultPc := rfl
@[simp] theorem setResultAndFlag_errlog (x : RegIdx) (r f : Byte) : (s.setResultAndFlag x r f).errlog = s.errlog := rfl
@[simp] theorem setResultAndFlag_errOut (x : RegIdx) (r f : Byte) : (s.setResultAndFlag x r f).errOut = s.errOut := rfl
@[simp] theorem setResultAndFlag_selfJump (x : RegIdx) (r f : Byte) : (s.setResultAndFlag x r f).selfJump = s.selfJump := rfl
@[simp] theorem setResultAndFlag_romLen (x : RegIdx) (r f : Byte) : (s.setResultAndFlag x r f).romLen = s.romLen := rfl
@[simp] theorem setResultAndFlag_cfg (x : RegIdx) (r f : Byte) : (s.setResultAndFlag x r f).cfg = s.cfg := rfl
@[simp] theorem setResultAndFlag_pending (x : RegIdx) (r f : Byte) : (s.setResultAndFlag x r f).pending = s.pending := rfl
@[simp] theorem setResultAndFlag_draws (x : RegIdx) (r f : Byte) : (s.setResultAndFlag x r f).draws = s.draws := rfl

/-! ### loadRegs -/

@[simp] theorem loadRegs_v (x : RegIdx) (f : Nat → Byte) : (s.loadRegs x f).v = Vector.ofFn (fun k : Fin 16 => if k.val ≤ x.toNat then f k.val else s.v[k]) := rfl
@[simp] theorem loadRegs_i (x : RegIdx) (f : Nat → Byte) : (s.loadRegs x f).i = s.i := rfl
@[simp] theorem loadRegs_pc (x : RegIdx) (f : Nat → Byte) : (s.loadRegs x f).pc = s.pc := rfl
@[simp] theorem loadRegs_dt (x : RegIdx) (f : Nat → Byte) : (s.loadRegs x f).dt = s.dt := rfl
@[simp] theorem loadRegs_st (x : RegIdx) (f : Nat → Byte) : (s.loadRegs x f).st = s.st := rfl
@[simp] theorem loadRegs_stk (x : RegIdx) (f : Nat → Byte) : (s.loadRegs x f).stk = s.stk := rfl
@[simp] theorem loadRegs_sp (x : RegIdx) (f : Nat → Byte) : (s.loadRegs x f).sp = s.sp := rfl
@[simp] theorem loadRegs_key (x : RegIdx) (f : Nat → Byte) : (s.loadRegs x f).key = s.key := rfl
@[simp] theorem loadRegs_fb (x : RegIdx) (f : Nat → Byte) : (s.loadRegs x f).fb = s.fb := rfl
@[simp] theorem loadRegs_mem (x : RegIdx) (f : Nat → Byte) : (s.loadRegs x f).mem = s.mem := rfl
@[simp] theorem loadRegs_status (x : RegIdx) (f : Nat → Byte) : (s.loadRegs x f).status = s.status := rfl
@[simp] theorem loadRegs_faultCode (x : RegIdx) (f : Nat → Byte) : (s.loadRegs x f).faultCode = s.faultCode := rfl
@[simp] theorem loadRegs_faultPc (x : RegIdx) (f : Nat → Byte) : (s.loadRegs x f).faultPc = s.faultPc := rfl
@[simp] theorem loadRegs_errlog (x : RegIdx) (f : Nat → Byte) : (s.loadRegs x f).errlog = s.errlog := rfl
@[simp] theorem loadRegs_errOut (x : RegIdx) (f : Nat → Byte) : (s.loadRegs x f).errOut = s.errOut := rfl
@[simp] theorem loadRegs_selfJump (x : RegIdx) (f : Nat → Byte) : (s.loadRegs x f).selfJump = s.selfJump := rfl
@[simp] theorem loadRegs_romLen (x : RegIdx) (f : Nat → Byte) : (s.loadRegs x f).romLen = s.romLen := rfl
@[simp] theorem loadRegs_cfg (x : RegIdx) (f : Nat → Byte) : (s.loadRegs x f).cfg = s.cfg := rfl
@[simp] theorem loadRegs_pending (x : RegIdx) (f : Nat → Byte) : (s.loadRegs x f).pending = s.pending := rfl
@[simp] theorem loadRegs_draws (x : RegIdx) (f : Nat → Byte) : (s.loadRegs x f).draws = s.draws := rfl

/-! ### setI -/

@[simp] theorem setI_i (w : Word) : (s.setI w).i = w := rfl
@[simp] theorem setI_v (w : Word) : (s.setI w).v = s.v := rfl
@[simp] theorem setI_pc (w : Word) : (s.setI w).pc = s.pc := rfl
@[simp] theorem setI_dt (w : Word) : (s.setI w).dt = s.dt := rfl
@[simp] theorem setI_st (w : Word) : (s.setI w).st = s.st := rfl
@[simp] theorem setI_stk (w : Word) : (s.setI w).stk = s.stk := rfl
@[simp] theorem setI_sp (w : Word) : (s.setI w).sp = s.sp := rfl
@[simp] theorem setI_key (w : Word) : (s.setI w).key = s.key := rfl
@[simp] theorem setI_fb (w : Word) : (s.setI w).fb = s.fb := rfl
@[simp] theorem setI_mem (w : Word) : (s.setI w).mem = s.mem := rfl
@[simp] theorem setI_status (w : Word) : (s.setI w).status = s.status := rfl
@[simp] theorem setI_faultCode (w : Word) : (s.setI w).faultCode = s.faultCode := rfl
@[simp] theorem setI_faultPc (w : Word) : (s.setI w).faultPc = s.faultPc := rfl
@[simp] theorem setI_errlog (w : Word) : (s.setI w).errlog = s.errlog := rfl
@[simp] theorem setI_errOut (w : Word) : (s.setI w).errOut = s.errOut := rfl
@[simp] theorem setI_selfJump (w : Word) : (s.setI w).selfJump = s.selfJump := rfl
@[simp] theorem setI_romLen (w : Word) : (s.setI w).romLen = s.romLen := rfl
@[simp] theorem setI_cfg (w : Word) : (s.setI w).cfg = s.cfg := rfl
@[simp] theorem setI_pending (w : Word) : (s.setI w).pending = s.pending := rfl
@[simp] theorem setI_draws (w : Word) : (s.setI w).draws = s.draws := rfl

/-! ### setDt -/

@[simp] theorem setDt_dt (b : Byte) : (s.setDt b).dt = b := rfl
@[simp] theorem setDt_v (b : Byte) : (s.setDt b).v = s.v := rfl
@[simp] theorem setDt_i (b : Byte) : (s.setDt b).i = s.i := rfl
@[simp] theorem setDt_pc (b : Byte) : (s.setDt b).pc = s.pc := rfl
@[simp] theorem setDt_st (b : Byte) : (s.setDt b).st = s.st := rfl
@[simp] theorem setDt_stk (b : Byte) : (s.setDt b).stk = s.stk := rfl
@[simp] theorem setDt_sp (b : Byte) : (s.setDt b).sp = s.sp := rfl
@[simp] theorem setDt_key (b : Byte) : (s.setDt b).key = s.key := rfl
@[simp] theorem setDt_fb (b : Byte) : (s.setDt b).fb = s.fb := rfl
@[simp] theorem setDt_mem (b : Byte) : (s.setDt b).mem = s.mem := rfl
@[simp] theorem setDt_status (b : Byte) : (s.setDt b).status = s.status := rfl
@[simp] theorem setDt_faultCode (b : Byte) : (s.setDt b).faultCode = s.faultCode := rfl
@[simp] theorem setDt_faultPc (b : Byte) : (s.setDt b).faultPc = s.faultPc := rfl
@[simp] theorem setDt_errlog (b : Byte) : (s.setDt b).errlog = s.errlog := rfl
@[simp] theorem setDt_errOut (b : Byte) : (s.setDt b).errOut = s.errOut := rfl
@[simp] theorem setDt_selfJump (b : Byte) : (s.setDt b).selfJump = s.selfJump := rfl
@[simp] theorem setDt_romLen (b : Byte) : (s.setDt b).romLen = s.romLen := rfl
@[simp] theorem setDt_cfg (b : Byte) : (s.setDt b).cfg = s.cfg := rfl
@[simp] theorem setDt_pending (b : Byte) : (s.setDt b).pending = s.pending := rfl
@[simp] theorem setDt_draws (b : Byte) : (s.setDt b).draws = s.draws := rfl

/-! ### setSt -/

@[simp] theorem setSt_st (b : Byte) : (s.setSt b).st = b := rfl
@[simp] theorem setSt_v (b : Byte) : (s.setSt b).v = s.v := rfl
@[simp] theorem setSt_i (b : Byte) : (s.setSt b).i = s.i := rfl
@[simp] theorem setSt_pc (b : Byte) : (s.setSt b).pc = s.pc := rfl
@[simp] theorem setSt_dt (b : Byte) : (s.setSt b).dt = s.dt := rfl
@[simp] theorem setSt_stk (b : Byte) : (s.setSt b).stk = s.stk := rfl
@[simp] theorem setSt_sp (b : Byte) : (s.setSt b).sp = s.sp := rfl
@[simp] theorem setSt_key (b : Byte) : (s.setSt b).key = s.key := rfl
@[simp] theorem setSt_fb (b : Byte) : (s.setSt b).fb = s.fb := rfl
@[simp] theorem setSt_mem (b : Byte) : (s.setSt b).mem = s.mem := rfl
@[simp] theorem setSt_status (b : Byte) : (s.setSt b).status = s.status := rfl
@[simp] theorem setSt_faultCode (b : Byte) : (s.setSt b).faultCode = s.faultCode := rfl
@[simp] theorem setSt_faultPc (b : Byte) : (s.setSt b).faultPc = s.faultPc := rfl
@[simp] theorem setSt_errlog (b : Byte) : (s.setSt b).errlog = s.errlog := rfl
@[simp] theorem setSt_errOut (b : Byte) : (s.setSt b).errOut = s.errOut := rfl
@[simp] theorem setSt_selfJump (b : Byte) : (s.setSt b).selfJump = s.selfJump := rfl
@[simp] theorem setSt_romLen (b : Byte) : (s.setSt b).romLen = s.romLen := rfl
@[simp] theorem setSt_cfg (b : Byte) : (s.setSt b).cfg = s.cfg := rfl
@[simp] theorem setSt_pending (b : Byte) : (s.setSt b).pending = s.pending := rfl
@[simp] theorem setSt_draws (b : Byte) : (s.setSt b).draws = s.draws := rfl

/-! ### setFb -/

@[simp] theorem setFb_fb (f : FrameBuffer) : (s.setFb f).fb = f := rfl
@[simp] theorem setFb_v (f : FrameBuffer) : (s.setFb f).v = s.v := rfl
@[simp] theorem setFb_i (f : FrameBuffer) : (s.setFb f).i = s.i := rfl
@[simp] theorem setFb_pc (f : FrameBuffer) : (s.setFb f).pc = s.pc := rfl
@[simp] theorem setFb_dt (f : FrameBuffer) : (s.setFb f).dt = s.dt := rfl
@[simp] theorem setFb_st (f : FrameBuffer) : (s.setFb f).st = s.st := rfl
@[simp] theorem setFb_stk (f : FrameBuffer) : (s.setFb f).stk = s.stk := rfl
@[simp] theorem setFb_sp (f : FrameBuffer) : (s.setFb f).sp = s.sp := rfl
@[simp] theorem setFb_key (f : FrameBuffer) : (s.setFb f).key = s.key := rfl
@[simp] theorem setFb_mem (f : FrameBuffer) : (s.setFb f).mem = s.mem := rfl
@[simp] theorem setFb_status (f : FrameBuffer) : (s.setFb f).status = s.status := rfl
@[simp] theorem setFb_faultCode (f : FrameBuffer) : (s.setFb f).faultCode = s.faultCode := rfl
@[simp] theorem setFb_faultPc (f : FrameBuffer) : (s.setFb f).faultPc = s.faultPc := rfl
@[simp] theorem setFb_errlog (f : FrameBuffer) : (s.setFb f).errlog = s.errlog := rfl
@[simp] theorem setFb_errOut (f : FrameBuffer) : (s.setFb f).errOut = s.errOut := rfl
@[simp] theorem setFb_selfJump (f : FrameBuffer) : (s.setFb f).selfJump = s.selfJump := rfl
@[simp] theorem setFb_romLen (f : FrameBuffer) : (s.setFb f).romLen = s.romLen := rfl
@[simp] theorem setFb_cfg (f : FrameBuffer) : (s.setFb f).cfg = s.cfg := rfl
@[simp] theorem setFb_pending (f : FrameBuffer) : (s.setFb f).pending = s.pending := rfl
@[simp] theorem setFb_draws (f : FrameBuffer) : (s.setFb f).draws = s.draws := rfl

/-! ### writeBytes -/

@[simp] theorem writeBytes_mem (a : Nat) (bs : List Byte) : (s.writeBytes a bs).mem = Memory.writeList s.cfg s.mem a bs := rfl
@[simp] theorem writeBytes_v (a : Nat) (bs : List Byte) : (s.writeBytes a bs).v = s.v := rfl
@[simp] theorem writeBytes_i (a : Nat) (bs : List Byte) : (s.writeBytes a bs).i = s.i := rfl
@[simp] theorem writeBytes_pc (a : Nat) (bs : List Byte) : (s.writeBytes a bs).pc = s.pc := rfl
@[simp] theorem writeBytes_dt (a : Nat) (bs : List Byte) : (s.writeBytes a bs).dt = s.dt := rfl
@[simp] theorem writeBytes_st (a : Nat) (bs : List Byte) : (s.writeBytes a bs).st = s.st := rfl
@[simp] theorem writeBytes_stk (a : Nat) (bs : List Byte) : (s.writeBytes a bs).stk = s.stk := rfl
@[simp] theorem writeBytes_sp (a : Nat) (bs : List Byte) : (s.writeBytes a bs).sp = s.sp := rfl
@[simp] theorem writeBytes_key (a : Nat) (bs : List Byte) : (s.writeBytes a bs).key = s.key := rfl
@[simp] theorem writeBytes_fb (a : Nat) (bs : List Byte) : (s.writeBytes a bs).fb = s.fb := rfl
@[simp] theorem writeBytes_status (a : Nat) (bs : List Byte) : (s.writeBytes a bs).status = s.status := rfl
@[simp] theorem writeBytes_faultCode (a : Nat) (bs : List Byte) : (s.writeBytes a bs).faultCode = s.faultCode := rfl
@[simp] theorem writeBytes_faultPc (a : Nat) (bs : List Byte) : (s.writeBytes a bs).faultPc = s.faultPc := rfl
@[simp] theorem writeBytes_errlog (a : Nat) (bs : List Byte) : (s.writeBytes a bs).errlog = s.errlog := rfl
@[simp] theorem writeBytes_errOut (a : Nat) (bs : List Byte) : (s.writeBytes a bs).errOut = s.errOut := rfl
@[simp] theorem writeBytes_selfJump (a : Nat) (bs : List Byte) : (s.writeBytes a bs).selfJump = s.selfJump := rfl
@[simp] theorem writeBytes_romLen (a : Nat) (bs : List Byte) : (s.writeBytes a bs).romLen = s.romLen := rfl
@[simp] theorem writeBytes_cfg (a : Nat) (bs : List Byte) : (s.writeBytes a bs).cfg = s.cfg := rfl
@[simp] theorem writeBytes_pending (a : Nat) (bs : List Byte) : (s.writeBytes a bs).pending = s.pending := rfl
@[simp] theorem writeBytes_draws (a : Nat) (bs : List Byte) : (s.writeBytes a bs).draws = s.draws := rfl

/-! ### countDraw -/

@[simp] theorem countDraw_draws : (s.countDraw).draws = s.draws + 1 := rfl
@[simp] theorem countDraw_v : (s.countDraw).v = s.v := rfl
@[simp] theorem countDraw_i : (s.countDraw).i = s.i := rfl
@[simp] theorem countDraw_pc : (s.countDraw).pc = s.pc := rfl
@[simp] theorem countDraw_dt : (s.countDraw).dt = s.dt := rfl
@[simp] theorem countDraw_st : (s.countDraw).st = s.st := rfl
@[simp] theorem countDraw_stk : (s.countDraw).stk = s.stk := rfl
@[simp] theorem countDraw_sp : (s.countDraw).sp = s.sp := rfl
@[simp] theorem countDraw_key : (s.countDraw).key = s.key := rfl
@[simp] theorem countDraw_fb : (s.countDraw).fb = s.fb := rfl
@[simp] theorem countDraw_mem : (s.countDraw).mem = s.mem := rfl
@[simp] theorem countDraw_status : (s.countDraw).status = s.status := rfl
@[simp] theorem countDraw_faultCode : (s.countDraw).faultCode = s.faultCode := rfl
@[simp] theorem countDraw_faultPc : (s.countDraw).faultPc = s.faultPc := rfl
@[simp] theorem countDraw_errlog : (s.countDraw).errlog = s.errlog := rfl
@[simp] theorem countDraw_errOut : (s.countDraw).errOut = s.errOut := rfl
@[simp] theorem countDraw_selfJump : (s.countDraw).selfJump = s.selfJump := rfl
@[simp] theorem countDraw_romLen : (s.countDraw).romLen = s.romLen := rfl
@[simp] theorem countDraw_cfg : (s.countDraw).cfg = s.cfg := rfl
@[simp] theorem countDraw_pending : (s.countDraw).pending = s.pending := rfl

/-! ### goto -/

@[simp] theorem goto_pc (w : Word) : (s.goto w).pc = w := rfl
@[simp] theorem goto_status (w : Word) : (s.goto w).status = .running := rfl
@[simp] theorem goto_v (w : Word) : (s.goto w).v = s.v := rfl
@[simp] theorem goto_i (w : Word) : (s.goto w).i = s.i := rfl
@[simp] theorem goto_dt (w : Word) : (s.goto w).dt = s.dt := rfl
@[simp] theorem goto_st (w : Word) : (s.goto w).st = s.st := rfl
@[simp] theorem goto_stk (w : Word) : (s.goto w).stk = s.stk := rfl
@[simp] theorem goto_sp (w : Word) : (s.goto w).sp = s.sp := rfl
@[simp] theorem goto_key (w : Word) : (s.goto w).key = s.key := rfl
@[simp] theorem goto_fb (w : Word) : (s.goto w).fb = s.fb := rfl
@[simp] theorem goto_mem (w : Word) : (s.goto w).mem = s.mem := rfl
@[simp] theorem goto_faultCode (w : Word) : (s.goto w).faultCode = s.faultCode := rfl
@[simp] theorem goto_faultPc (w : Word) : (s.goto w).faultPc = s.faultPc := rfl
@[simp] theorem goto_errlog (w : Word) : (s.goto w).errlog = s.errlog := rfl
@[simp] theorem goto_errOut (w : Word) : (s.goto w).errOut = s.errOut := rfl
@[simp] theorem goto_selfJump (w : Word) : (s.goto w).selfJump = s.selfJump := rfl
@[simp] theorem goto_romLen (w : Word) : (s.goto w).romLen = s.romLen := rfl
@[simp] theorem goto_cfg (w : Word) : (s.goto w).cfg = s.cfg := rfl
@[simp] theorem goto_pending (w : Word) : (s.goto w).pending = s.pending := rfl
@[simp] theorem goto_draws (w : Word) : (s.goto w).draws = s.draws := rfl

/-! ### advance -/

@[simp] theorem advance_pc : (s.advance).pc = s.pc + 2 := rfl
@[simp] theorem advance_status : (s.advance).status = .running := rfl
@[simp] theorem advance_v : (s.advance).v = s.v := rfl
@[simp] theorem advance_i : (s.advance).i = s.i := rfl
@[simp] theorem advance_dt : (s.advance).dt = s.dt := rfl
@[simp] theorem advance_st : (s.advance).st = s.st := rfl
@[simp] theorem advance_stk : (s.advance).stk = s.stk := rfl
@[simp] theorem advance_sp : (s.advance).sp = s.sp := rfl
@[simp] theorem advance_key : (s.advance).key = s.key := rfl
@[simp] theorem advance_fb : (s.advance).fb = s.fb := rfl
@[simp] theorem advance_mem : (s.advance).mem = s.mem := rfl
@[simp] theorem advance_faultCode : (s.advance).faultCode = s.faultCode := rfl
@[simp] theorem advance_faultPc : (s.advance).faultPc = s.faultPc := rfl
@[simp] theorem advance_errlog : (s.advance).errlog = s.errlog := rfl
@[simp] theorem advance_errOut : (s.advance).errOut = s.errOut := rfl
@[simp] theorem advance_selfJump : (s.advance).selfJump = s.selfJump := rfl
@[simp] theorem advance_romLen : (s.advance).romLen = s.romLen := rfl
@[simp] theorem advance_cfg : (s.advance).cfg = s.cfg := rfl
@[simp] theorem advance_pending : (s.advance).pending = s.pending := rfl
@[simp] theorem advance_draws : (s.advance).draws = s.draws := rfl

/-! ### skipIf -/

@[simp] theorem skipIf_pc (c : Bool) : (s.skipIf c).pc = if c then s.pc + 4 else s.pc + 2 := rfl
@[simp] theorem skipIf_status (c : Bool) : (s.skipIf c).status = .running := rfl
@[simp] theorem skipIf_v (c : Bool) : (s.skipIf c).v = s.v := rfl
@[simp] theorem skipIf_i (c : Bool) : (s.skipIf c).i = s.i := rfl
@[simp] theorem skipIf_dt (c : Bool) : (s.skipIf c).dt = s.dt := rfl
@[simp] theorem skipIf_st (c : Bool) : (s.skipIf c).st = s.st := rfl
@[simp] theorem skipIf_stk (c : Bool) : (s.skipIf c).stk = s.stk := rfl
@[simp] theorem skipIf_sp (c : Bool) : (s.skipIf c).sp = s.sp := rfl
@[simp] theorem skipIf_key (c : Bool) : (s.skipIf c).key = s.key := rfl
@[simp] theorem skipIf_fb (c : Bool) : (s.skipIf c).fb = s.fb := rfl
@[simp] theorem skipIf_mem (c : Bool) : (s.skipIf c).mem = s.mem := rfl
@[simp] theorem skipIf_faultCode (c : Bool) : (s.skipIf c).faultCode = s.faultCode := rfl
@[simp] theorem skipIf_faultPc (c : Bool) : (s.skipIf c).faultPc = s.faultPc := rfl
@[simp] theorem skipIf_errlog (c : Bool) : (s.skipIf c).errlog = s.errlog := rfl
@[simp] theorem skipIf_errOut (c : Bool) : (s.skipIf c).errOut = s.errOut := rfl
@[simp] theorem skipIf_selfJump (c : Bool) : (s.skipIf c).selfJump = s.selfJump := rfl
@[simp] theorem skipIf_romLen (c : Bool) : (s.skipIf c).romLen = s.romLen := rfl
@[simp] theorem skipIf_cfg (c : Bool) : (s.skipIf c).cfg = s.cfg := rfl
@[simp] theorem skipIf_pending (c : Bool) : (s.skipIf c).pending = s.pending := rfl
@[simp] theorem skipIf_draws (c : Bool) : (s.skipIf c).draws = s.draws := rfl

/-! ### goIdle -/

@[simp] theorem goIdle_pc (w : Word) : (s.goIdle w).pc = w := rfl
@[simp] theorem goIdle_status (w : Word) : (s.goIdle w).status = .idle := rfl
@[simp] theorem goIdle_selfJump (w : Word) : (s.goIdle w).selfJump = true := rfl
@[simp] theorem goIdle_v (w : Word) : (s.goIdle w).v = s.v := rfl
@[simp] theorem goIdle_i (w : Word) : (s.goIdle w).i = s.i := rfl
@[simp] theorem goIdle_dt (w : Word) : (s.goIdle w).dt = s.dt := rfl
@[simp] theorem goIdle_st (w : Word) : (s.goIdle w).st = s.st := rfl
@[simp] theorem goIdle_stk (w : Word) : (s.goIdle w).stk = s.stk := rfl
@[simp] theorem goIdle_sp (w : Word) : (s.goIdle w).sp = s.sp := rfl
@[simp] theorem goIdle_key (w : Word) : (s.goIdle w).key = s.key := rfl
@[simp] theorem goIdle_fb (w : Word) : (s.goIdle w).fb = s.fb := rfl
@[simp] theorem goIdle_mem (w : Word) : (s.goIdle w).mem = s.mem := rfl
@[simp] theorem goIdle_faultCode (w : Word) : (s.goIdle w).faultCode = s.faultCode := rfl
@[simp] theorem goIdle_faultPc (w : Word) : (s.goIdle w).faultPc = s.faultPc := rfl
@[simp] theorem goIdle_errlog (w : Word) : (s.goIdle w).errlog = s.errlog := rfl
@[simp] theorem goIdle_errOut (w : Word) : (s.goIdle w).errOut = s.errOut := rfl
@[simp] theorem goIdle_romLen (w : Word) : (s.goIdle w).romLen = s.romLen := rfl
@[simp] theorem goIdle_cfg (w : Word) : (s.goIdle w).cfg = s.cfg := rfl
@[simp] theorem goIdle_pending (w : Word) : (s.goIdle w).pending = s.pending := rfl
@[simp] theorem goIdle_draws (w : Word) : (s.goIdle w).draws = s.draws := rfl

/-! ### awaitKey -/

@[simp] theorem awaitKey_status : (s.awaitKey).status = .awaitingKey := rfl
@[simp] theorem awaitKey_v : (s.awaitKey).v = s.v := rfl
@[simp] theorem awaitKey_i : (s.awaitKey).i = s.i := rfl
@[simp] theorem awaitKey_pc : (s.awaitKey).pc = s.pc := rfl
@[simp] theorem awaitKey_dt : (s.awaitKey).dt = s.dt := rfl
@[simp] theorem awaitKey_st : (s.awaitKey).st = s.st := rfl
@[simp] theorem awaitKey_stk : (s.awaitKey).stk = s.stk := rfl
@[simp] theorem awaitKey_sp : (s.awaitKey).sp = s.sp := rfl
@[simp] theorem awaitKey_key : (s.awaitKey).key = s.key := rfl
@[simp] theorem awaitKey_fb : (s.awaitKey).fb = s.fb := rfl
@[simp] theorem awaitKey_mem : (s.awaitKey).mem = s.mem := rfl
@[simp] theorem awaitKey_faultCode : (s.awaitKey).faultCode = s.faultCode := rfl
@[simp] theorem awaitKey_faultPc : (s.awaitKey).faultPc = s.faultPc := rfl
@[simp] theorem awaitKey_errlog : (s.awaitKey).errlog = s.errlog := rfl
@[simp] theorem awaitKey_errOut : (s.awaitKey).errOut = s.errOut := rfl
@[simp] theorem awaitKey_selfJump : (s.awaitKey).selfJump = s.selfJump := rfl
@[simp] theorem awaitKey_romLen : (s.awaitKey).romLen = s.romLen := rfl
@[simp] theorem awaitKey_cfg : (s.awaitKey).cfg = s.cfg := rfl
@[simp] theorem awaitKey_pending : (s.awaitKey).pending = s.pending := rfl
@[simp] theorem awaitKey_draws : (s.awaitKey).draws = s.draws := rfl

/-! ### signal -/

@[simp] theorem signal_errlog (e : CoreError) : (s.signal e).errlog = s.errlog ||| e.logBit := rfl
@[simp] theorem signal_errOut (e : CoreError) : (s.signal e).errOut = some e := rfl
@[simp] theorem signal_v (e : CoreError) : (s.signal e).v = s.v := rfl
@[simp] theorem signal_i (e : CoreError) : (s.signal e).i = s.i := rfl
@[simp] theorem signal_pc (e : CoreError) : (s.signal e).pc = s.pc := rfl
@[simp] theorem signal_dt (e : CoreError) : (s.signal e).dt = s.dt := rfl
@[simp] theorem signal_st (e : CoreError) : (s.signal e).st = s.st := rfl
@[simp] theorem signal_stk (e : CoreError) : (s.signal e).stk = s.stk := rfl
@[simp] theorem signal_sp (e : CoreError) : (s.signal e).sp = s.sp := rfl
@[simp] theorem signal_key (e : CoreError) : (s.signal e).key = s.key := rfl
@[simp] theorem signal_fb (e : CoreError) : (s.signal e).fb = s.fb := rfl
@[simp] theorem signal_mem (e : CoreError) : (s.signal e).mem = s.mem := rfl
@[simp] theorem signal_status (e : CoreError) : (s.signal e).status = s.status := rfl
@[simp] theorem signal_faultCode (e : CoreError) : (s.signal e).faultCode = s.faultCode := rfl
@[simp] theorem signal_faultPc (e : CoreError) : (s.signal e).faultPc = s.faultPc := rfl
@[simp] theorem signal_selfJump (e : CoreError) : (s.signal e).selfJump = s.selfJump := rfl
@[simp] theorem signal_romLen (e : CoreError) : (s.signal e).romLen = s.romLen := rfl
@[simp] theorem signal_cfg (e : CoreError) : (s.signal e).cfg = s.cfg := rfl
@[simp] theorem signal_pending (e : CoreError) : (s.signal e).pending = s.pending := rfl
@[simp] theorem signal_draws (e : CoreError) : (s.signal e).draws = s.draws := rfl

/-! ### enterFaulted -/

@[simp] theorem enterFaulted_faultCode (e : CoreError) : (s.enterFaulted e).faultCode = e.code := rfl
@[simp] theorem enterFaulted_faultPc (e : CoreError) : (s.enterFaulted e).faultPc = s.pc := rfl
@[simp] theorem enterFaulted_status (e : CoreError) : (s.enterFaulted e).status = .faulted := rfl
@[simp] theorem enterFaulted_v (e : CoreError) : (s.enterFaulted e).v = s.v := rfl
@[simp] theorem enterFaulted_i (e : CoreError) : (s.enterFaulted e).i = s.i := rfl
@[simp] theorem enterFaulted_pc (e : CoreError) : (s.enterFaulted e).pc = s.pc := rfl
@[simp] theorem enterFaulted_dt (e : CoreError) : (s.enterFaulted e).dt = s.dt := rfl
@[simp] theorem enterFaulted_st (e : CoreError) : (s.enterFaulted e).st = s.st := rfl
@[simp] theorem enterFaulted_stk (e : CoreError) : (s.enterFaulted e).stk = s.stk := rfl
@[simp] theorem enterFaulted_sp (e : CoreError) : (s.enterFaulted e).sp = s.sp := rfl
@[simp] theorem enterFaulted_key (e : CoreError) : (s.enterFaulted e).key = s.key := rfl
@[simp] theorem enterFaulted_fb (e : CoreError) : (s.enterFaulted e).fb = s.fb := rfl
@[simp] theorem enterFaulted_mem (e : CoreError) : (s.enterFaulted e).mem = s.mem := rfl
@[simp] theorem enterFaulted_errlog (e : CoreError) : (s.enterFaulted e).errlog = s.errlog := rfl
@[simp] theorem enterFaulted_errOut (e : CoreError) : (s.enterFaulted e).errOut = s.errOut := rfl
@[simp] theorem enterFaulted_selfJump (e : CoreError) : (s.enterFaulted e).selfJump = s.selfJump := rfl
@[simp] theorem enterFaulted_romLen (e : CoreError) : (s.enterFaulted e).romLen = s.romLen := rfl
@[simp] theorem enterFaulted_cfg (e : CoreError) : (s.enterFaulted e).cfg = s.cfg := rfl
@[simp] theorem enterFaulted_pending (e : CoreError) : (s.enterFaulted e).pending = s.pending := rfl
@[simp] theorem enterFaulted_draws (e : CoreError) : (s.enterFaulted e).draws = s.draws := rfl

/-! ### clearOutputs -/

@[simp] theorem clearOutputs_errOut : (s.clearOutputs).errOut = none := rfl
@[simp] theorem clearOutputs_selfJump : (s.clearOutputs).selfJump = false := rfl
@[simp] theorem clearOutputs_v : (s.clearOutputs).v = s.v := rfl
@[simp] theorem clearOutputs_i : (s.clearOutputs).i = s.i := rfl
@[simp] theorem clearOutputs_pc : (s.clearOutputs).pc = s.pc := rfl
@[simp] theorem clearOutputs_dt : (s.clearOutputs).dt = s.dt := rfl
@[simp] theorem clearOutputs_st : (s.clearOutputs).st = s.st := rfl
@[simp] theorem clearOutputs_stk : (s.clearOutputs).stk = s.stk := rfl
@[simp] theorem clearOutputs_sp : (s.clearOutputs).sp = s.sp := rfl
@[simp] theorem clearOutputs_key : (s.clearOutputs).key = s.key := rfl
@[simp] theorem clearOutputs_fb : (s.clearOutputs).fb = s.fb := rfl
@[simp] theorem clearOutputs_mem : (s.clearOutputs).mem = s.mem := rfl
@[simp] theorem clearOutputs_status : (s.clearOutputs).status = s.status := rfl
@[simp] theorem clearOutputs_faultCode : (s.clearOutputs).faultCode = s.faultCode := rfl
@[simp] theorem clearOutputs_faultPc : (s.clearOutputs).faultPc = s.faultPc := rfl
@[simp] theorem clearOutputs_errlog : (s.clearOutputs).errlog = s.errlog := rfl
@[simp] theorem clearOutputs_romLen : (s.clearOutputs).romLen = s.romLen := rfl
@[simp] theorem clearOutputs_cfg : (s.clearOutputs).cfg = s.cfg := rfl
@[simp] theorem clearOutputs_pending : (s.clearOutputs).pending = s.pending := rfl
@[simp] theorem clearOutputs_draws : (s.clearOutputs).draws = s.draws := rfl

/-! ### takeEvent -/

@[simp] theorem takeEvent_pending : (s.takeEvent).pending = s.pending.tail := rfl
@[simp] theorem takeEvent_v : (s.takeEvent).v = s.v := rfl
@[simp] theorem takeEvent_i : (s.takeEvent).i = s.i := rfl
@[simp] theorem takeEvent_pc : (s.takeEvent).pc = s.pc := rfl
@[simp] theorem takeEvent_dt : (s.takeEvent).dt = s.dt := rfl
@[simp] theorem takeEvent_st : (s.takeEvent).st = s.st := rfl
@[simp] theorem takeEvent_stk : (s.takeEvent).stk = s.stk := rfl
@[simp] theorem takeEvent_sp : (s.takeEvent).sp = s.sp := rfl
@[simp] theorem takeEvent_key : (s.takeEvent).key = s.key := rfl
@[simp] theorem takeEvent_fb : (s.takeEvent).fb = s.fb := rfl
@[simp] theorem takeEvent_mem : (s.takeEvent).mem = s.mem := rfl
@[simp] theorem takeEvent_status : (s.takeEvent).status = s.status := rfl
@[simp] theorem takeEvent_faultCode : (s.takeEvent).faultCode = s.faultCode := rfl
@[simp] theorem takeEvent_faultPc : (s.takeEvent).faultPc = s.faultPc := rfl
@[simp] theorem takeEvent_errlog : (s.takeEvent).errlog = s.errlog := rfl
@[simp] theorem takeEvent_errOut : (s.takeEvent).errOut = s.errOut := rfl
@[simp] theorem takeEvent_selfJump : (s.takeEvent).selfJump = s.selfJump := rfl
@[simp] theorem takeEvent_romLen : (s.takeEvent).romLen = s.romLen := rfl
@[simp] theorem takeEvent_cfg : (s.takeEvent).cfg = s.cfg := rfl
@[simp] theorem takeEvent_draws : (s.takeEvent).draws = s.draws := rfl

/-! ### keyLatch -/

@[simp] theorem keyLatch_key (keys : BitVec 16) : (s.keyLatch keys).key = Vector.ofFn (fun k : Fin 16 => keys.getLsbD k.val) := rfl
@[simp] theorem keyLatch_v (keys : BitVec 16) : (s.keyLatch keys).v = s.v := rfl
@[simp] theorem keyLatch_i (keys : BitVec 16) : (s.keyLatch keys).i = s.i := rfl
@[simp] theorem keyLatch_pc (keys : BitVec 16) : (s.keyLatch keys).pc = s.pc := rfl
@[simp] theorem keyLatch_dt (keys : BitVec 16) : (s.keyLatch keys).dt = s.dt := rfl
@[simp] theorem keyLatch_st (keys : BitVec 16) : (s.keyLatch keys).st = s.st := rfl
@[simp] theorem keyLatch_stk (keys : BitVec 16) : (s.keyLatch keys).stk = s.stk := rfl
@[simp] theorem keyLatch_sp (keys : BitVec 16) : (s.keyLatch keys).sp = s.sp := rfl
@[simp] theorem keyLatch_fb (keys : BitVec 16) : (s.keyLatch keys).fb = s.fb := rfl
@[simp] theorem keyLatch_mem (keys : BitVec 16) : (s.keyLatch keys).mem = s.mem := rfl
@[simp] theorem keyLatch_status (keys : BitVec 16) : (s.keyLatch keys).status = s.status := rfl
@[simp] theorem keyLatch_faultCode (keys : BitVec 16) : (s.keyLatch keys).faultCode = s.faultCode := rfl
@[simp] theorem keyLatch_faultPc (keys : BitVec 16) : (s.keyLatch keys).faultPc = s.faultPc := rfl
@[simp] theorem keyLatch_errlog (keys : BitVec 16) : (s.keyLatch keys).errlog = s.errlog := rfl
@[simp] theorem keyLatch_errOut (keys : BitVec 16) : (s.keyLatch keys).errOut = s.errOut := rfl
@[simp] theorem keyLatch_selfJump (keys : BitVec 16) : (s.keyLatch keys).selfJump = s.selfJump := rfl
@[simp] theorem keyLatch_romLen (keys : BitVec 16) : (s.keyLatch keys).romLen = s.romLen := rfl
@[simp] theorem keyLatch_cfg (keys : BitVec 16) : (s.keyLatch keys).cfg = s.cfg := rfl
@[simp] theorem keyLatch_pending (keys : BitVec 16) : (s.keyLatch keys).pending = s.pending := rfl
@[simp] theorem keyLatch_draws (keys : BitVec 16) : (s.keyLatch keys).draws = s.draws := rfl

end Sys2Proof.Machine.State
end

