-- ==== Sys2Proof/Laws/Access.lean ====
section
/-! SUPPORT. Reading a general register, a byte of memory or the load bound after each update of the state
(10_state.md R21, R22; 20_memory.md R59). -/

namespace Sys2Proof.Machine.State

variable (s : State)

/-! ### Updates that write neither registers nor memory -/

@[simp] theorem setV_readByte (x : RegIdx) (b : Byte) (j : Nat) : (s.setV x b).readByte j = s.readByte j := rfl
@[simp] theorem setResultAndFlag_readByte (x : RegIdx) (r f : Byte) (j : Nat) : (s.setResultAndFlag x r f).readByte j = s.readByte j := rfl
@[simp] theorem loadRegs_readByte (x : RegIdx) (f : Nat → Byte) (j : Nat) : (s.loadRegs x f).readByte j = s.readByte j := rfl
@[simp] theorem setI_readV (w : Word) (k : RegIdx) : (s.setI w).readV k = s.readV k := rfl
@[simp] theorem setI_readByte (w : Word) (j : Nat) : (s.setI w).readByte j = s.readByte j := rfl
@[simp] theorem setDt_readV (b : Byte) (k : RegIdx) : (s.setDt b).readV k = s.readV k := rfl
@[simp] theorem setDt_readByte (b : Byte) (j : Nat) : (s.setDt b).readByte j = s.readByte j := rfl
@[simp] theorem setSt_readV (b : Byte) (k : RegIdx) : (s.setSt b).readV k = s.readV k := rfl
@[simp] theorem setSt_readByte (b : Byte) (j : Nat) : (s.setSt b).readByte j = s.readByte j := rfl
@[simp] theorem setFb_readV (f : FrameBuffer) (k : RegIdx) : (s.setFb f).readV k = s.readV k := rfl
@[simp] theorem setFb_readByte (f : FrameBuffer) (j : Nat) : (s.setFb f).readByte j = s.readByte j := rfl
@[simp] theorem writeBytes_readV (a : Nat) (bs : List Byte) (k : RegIdx) : (s.writeBytes a bs).readV k = s.readV k := rfl
@[simp] theorem countDraw_readV (k : RegIdx) : (s.countDraw).readV k = s.readV k := rfl
@[simp] theorem countDraw_readByte (j : Nat) : (s.countDraw).readByte j = s.readByte j := rfl
@[simp] theorem goto_readV (w : Word) (k : RegIdx) : (s.goto w).readV k = s.readV k := rfl
@[simp] theorem goto_readByte (w : Word) (j : Nat) : (s.goto w).readByte j = s.readByte j := rfl
@[simp] theorem advance_readV (k : RegIdx) : (s.advance).readV k = s.readV k := rfl
@[simp] theorem advance_readByte (j : Nat) : (s.advance).readByte j = s.readByte j := rfl
@[simp] theorem skipIf_readV (c : Bool) (k : RegIdx) : (s.skipIf c).readV k = s.readV k := rfl
@[simp] theorem skipIf_readByte (c : Bool) (j : Nat) : (s.skipIf c).readByte j = s.readByte j := rfl
@[simp] theorem goIdle_readV (w : Word) (k : RegIdx) : (s.goIdle w).readV k = s.readV k := rfl
@[simp] theorem goIdle_readByte (w : Word) (j : Nat) : (s.goIdle w).readByte j = s.readByte j := rfl
@[simp] theorem awaitKey_readV (k : RegIdx) : (s.awaitKey).readV k = s.readV k := rfl
@[simp] theorem awaitKey_readByte (j : Nat) : (s.awaitKey).readByte j = s.readByte j := rfl
@[simp] theorem signal_readV (e : CoreError) (k : RegIdx) : (s.signal e).readV k = s.readV k := rfl
@[simp] theorem signal_readByte (e : CoreError) (j : Nat) : (s.signal e).readByte j = s.readByte j := rfl
@[simp] theorem enterFaulted_readV (e : CoreError) (k : RegIdx) : (s.enterFaulted e).readV k = s.readV k := rfl
@[simp] theorem enterFaulted_readByte (e : CoreError) (j : Nat) : (s.enterFaulted e).readByte j = s.readByte j := rfl
@[simp] theorem clearOutputs_readV (k : RegIdx) : (s.clearOutputs).readV k = s.readV k := rfl
@[simp] theorem clearOutputs_readByte (j : Nat) : (s.clearOutputs).readByte j = s.readByte j := rfl
@[simp] theorem takeEvent_readV (k : RegIdx) : (s.takeEvent).readV k = s.readV k := rfl
@[simp] theorem takeEvent_readByte (j : Nat) : (s.takeEvent).readByte j = s.readByte j := rfl
@[simp] theorem keyLatch_readV (keys : BitVec 16) (k : RegIdx) : (s.keyLatch keys).readV k = s.readV k := rfl
@[simp] theorem keyLatch_readByte (keys : BitVec 16) (j : Nat) : (s.keyLatch keys).readByte j = s.readByte j := rfl

/-! ### Updates that write registers or memory -/

/-- A register write is seen in its own register and in no other (10_state.md R21). -/
@[simp] theorem setV_readV (x : RegIdx) (b : Byte) (k : RegIdx) :
    (s.setV x b).readV k = if k = x then b else s.readV k := by
  have hk : k = x ↔ k.toNat = x.toNat := BitVec.toNat_inj.symm
  simp only [readV, setV_v, Vector.getElem_set, hk, eq_comm]

/-- Data first, flag last: with `x = F` the flag stays (10_state.md R22). -/
@[simp] theorem setResultAndFlag_readV (x : RegIdx) (r f : Byte) (k : RegIdx) :
    (s.setResultAndFlag x r f).readV k = if k = vf then f else if k = x then r else s.readV k := by
  simp [setResultAndFlag]

/-- A register-range load writes V0..Vx and no other register (43_index_memory.md R155). -/
@[simp] theorem loadRegs_readV (x : RegIdx) (f : Nat → Byte) (k : RegIdx) :
    (s.loadRegs x f).readV k = if k.toNat ≤ x.toNat then f k.toNat else s.readV k := by
  simp [readV]

/-- V0..Vx are x + 1 bytes (43_index_memory.md R154). -/
@[simp] theorem regRange_length (x : RegIdx) : (s.regRange x).length = x.toNat + 1 := by
  have := x.isLt
  simp [regRange]
  omega

/-- Byte k of the range is V[k] (43_index_memory.md R154). -/
theorem regRange_getElem (x k : RegIdx) (h : k.toNat ≤ x.toNat) : (s.regRange x)[k.toNat]? = some (s.readV k) := by
  simp [regRange, readV, Nat.lt_succ_of_le h]

/-- What a store of consecutive bytes does to every read (20_memory.md R56, R59). -/
theorem writeBytes_readByte (a : Nat) (bs : List Byte) (j : Nat) (h : Memory.wf s.cfg s.mem = true)
    (ha : a + bs.length ≤ 4096) :
    (s.writeBytes a bs).readByte j =
      if a ≤ j ∧ j < a + bs.length then (bs[j - a]?).getD 0x00 else s.readByte j :=
  Memory.read_writeList h ha

/-- A store of consecutive bytes keeps the canonical form. -/
theorem writeBytes_wf (a : Nat) (bs : List Byte) (h : Memory.wf s.cfg s.mem = true) (ha : a + bs.length ≤ 4096) :
    Memory.wf (s.writeBytes a bs).cfg (s.writeBytes a bs).mem = true :=
  Memory.wf_writeList h ha

end Sys2Proof.Machine.State
end

