-- ==== Sys2Proof/Laws/Ops.lean ====
section
/-! SUPPORT. What each shared operation can do, said once: raising an error, the stack, the checks of a transfer, keys. -/

namespace Sys2Proof.Machine

/-! ### Errors (60_exceptions.md R202) -/

theorem State.raise_nonFatal {s : State} {e : CoreError} (h : e.isFatal s.cfg = false) :
    s.raise e = (s.signal e).advance := by simp [raise, h]

theorem State.raise_fatal {s : State} {e : CoreError} (h : e.isFatal s.cfg = true) :
    s.raise e = (s.signal e).enterFaulted e := by simp [raise, h]

/-- A non-fatal error is a rejection: the log, the output and PC, nothing else (60_exceptions.md R202). -/
theorem State.raise_rejected {s : State} {e : CoreError} (h : e.isFatal s.cfg = false) : Rejected e s (s.raise e) := by
  rw [State.raise_nonFatal h]
  exact ⟨rfl, rfl, rfl, rfl, fun _ _ => rfl, fun el hel => by cases el <;> simp_all [Element.same]⟩

/-- A fatal error faults the engine and keeps PC and all else (60_exceptions.md R202). -/
theorem State.raise_faults {s : State} {e : CoreError} (h : e.isFatal s.cfg = true) : Faults e s (s.raise e) := by
  rw [State.raise_fatal h]
  exact ⟨rfl, rfl, rfl, rfl, rfl, rfl, fun _ _ => rfl, fun el hel => by cases el <;> simp_all [Element.same]⟩

@[simp] theorem State.raise_cfg (s : State) (e : CoreError) : (s.raise e).cfg = s.cfg := by
  unfold State.raise; split <;> rfl

/-- An error of either kind is recorded and reported (60_exceptions.md R202). -/
theorem State.raise_reports (s : State) (e : CoreError) :
    (s.raise e).errOut = some e ∧ (s.raise e).errlog = s.errlog ||| 1#16 <<< e.code.toNat := by
  unfold State.raise; split <;> exact ⟨rfl, rfl⟩

@[simp] theorem State.raise_v (s : State) (e : CoreError) : (s.raise e).v = s.v := by
  unfold State.raise; split <;> rfl

@[simp] theorem State.raise_i (s : State) (e : CoreError) : (s.raise e).i = s.i := by
  unfold State.raise; split <;> rfl

@[simp] theorem State.raise_dt (s : State) (e : CoreError) : (s.raise e).dt = s.dt := by
  unfold State.raise; split <;> rfl

@[simp] theorem State.raise_st (s : State) (e : CoreError) : (s.raise e).st = s.st := by
  unfold State.raise; split <;> rfl

@[simp] theorem State.raise_stk (s : State) (e : CoreError) : (s.raise e).stk = s.stk := by
  unfold State.raise; split <;> rfl

@[simp] theorem State.raise_sp (s : State) (e : CoreError) : (s.raise e).sp = s.sp := by
  unfold State.raise; split <;> rfl

@[simp] theorem State.raise_key (s : State) (e : CoreError) : (s.raise e).key = s.key := by
  unfold State.raise; split <;> rfl

@[simp] theorem State.raise_fb (s : State) (e : CoreError) : (s.raise e).fb = s.fb := by
  unfold State.raise; split <;> rfl

@[simp] theorem State.raise_selfJump (s : State) (e : CoreError) : (s.raise e).selfJump = s.selfJump := by
  unfold State.raise; split <;> rfl

@[simp] theorem State.raise_romLen (s : State) (e : CoreError) : (s.raise e).romLen = s.romLen := by
  unfold State.raise; split <;> rfl

@[simp] theorem State.raise_pending (s : State) (e : CoreError) : (s.raise e).pending = s.pending := by
  unfold State.raise; split <;> rfl

@[simp] theorem State.raise_draws (s : State) (e : CoreError) : (s.raise e).draws = s.draws := by
  unfold State.raise; split <;> rfl

@[simp] theorem State.raise_mem (s : State) (e : CoreError) : (s.raise e).mem = s.mem := by
  unfold State.raise; split <;> rfl

@[simp] theorem State.raise_readV (s : State) (e : CoreError) (k : RegIdx) : (s.raise e).readV k = s.readV k := by
  unfold State.raise; split <;> rfl

@[simp] theorem State.raise_readByte (s : State) (e : CoreError) (a : Nat) : (s.raise e).readByte a = s.readByte a := by
  unfold State.raise; split <;> rfl

/-! ### The call stack (10_state.md R33, R34) -/

/-- `Push` writes entry SP and raises SP by one when fewer than 16 entries are held (10_state.md R33). -/
theorem State.push_room {s : State} {w : Word} (h : s.sp.val < 16) :
    s.push w = some { s with stk := s.stk.set s.sp.val w h, sp := ⟨s.sp.val + 1, Nat.succ_lt_succ h⟩ } := by
  simp [push, h]

/-- `Push` writes nothing when 16 entries are held (10_state.md R33). -/
theorem State.push_full {s : State} {w : Word} (h : s.sp.val = 16) : s.push w = none := by
  simp [push, h]

/-- A push that succeeds wrote entry SP and raised SP by one (10_state.md R33). -/
theorem State.push_some {s u : State} {w : Word} (h : s.push w = some u) :
    ∃ hs : s.sp.val < 16,
      u = { s with stk := s.stk.set s.sp.val w hs, sp := ⟨s.sp.val + 1, Nat.succ_lt_succ hs⟩ } := by
  unfold State.push at h
  split at h
  · next hs => exact ⟨hs, (Option.some.inj h).symm⟩
  · cases h

/-- On an empty stack the sentinel 0x0000 is returned and STACK_UNDERFLOW signalled (10_state.md R34). -/
theorem State.pop_empty {s : State} (h : s.sp.val = 0) :
    s.pop = s.signal (.stackUnderflow s.pc) ∧ s.topOfStack = 0 := by
  simp [pop, topOfStack, h]

/-- Otherwise the top entry is returned and SP falls by one; the entry itself stays (10_state.md R34). -/
theorem State.pop_held {s : State} (h : s.sp.val ≠ 0) :
    s.pop = { s with sp := ⟨s.sp.val - 1, Nat.lt_of_le_of_lt (Nat.sub_le _ _) s.sp.isLt⟩ }
      ∧ s.topOfStack = s.stk[s.sp.val - 1]'(by have := s.sp.isLt; omega) := by
  have hb : s.sp.val - 1 < 16 := by have := s.sp.isLt; omega
  simp [pop, topOfStack, h, Vector.getElem?_eq_getElem hb]

/-! ### The checks of a transfer (20_memory.md R57, R58) -/

theorem State.checkRead_none_iff {s : State} {n : Nat} :
    s.checkRead n = none ↔ n = 0 ∨ s.i.toNat + (n - 1) ≤ 0xFFF := by
  unfold checkRead effAddr
  split
  · simp; omega
  · simp; omega

/-- The bounds check answers nothing but BOUNDS_VIOLATION(0x1000). -/
theorem State.checkRead_some {s : State} {n : Nat} {e : CoreError} (h : s.checkRead n = some e) :
    e = .boundsViolation 0x1000 ∧ 0 < n ∧ s.i.toNat + (n - 1) > 0xFFF := by
  unfold checkRead at h
  split at h
  · next hc => exact ⟨(Option.some.inj h).symm, hc⟩
  · cases h

/-- The first protected address is the lowest of the range that lies in the font region. -/
theorem firstProtected_some {c : Config} {a n f : Nat} (h : firstProtected c a n = some f) :
    a ≤ f ∧ f < a + n ∧ inFont c f = true ∧ ∀ j, a ≤ j → j < f → inFont c j = false := by
  induction n generalizing a with
  | zero => cases h
  | succ n ih =>
    unfold firstProtected at h
    split at h
    · next hf =>
      cases h
      exact ⟨by omega, by omega, hf, fun j _ _ => by omega⟩
    · next hf =>
      obtain ⟨h1, h2, h3, h4⟩ := ih h
      refine ⟨by omega, by omega, h3, fun j hj hjf => ?_⟩
      by_cases hja : j = a
      · subst hja; simpa using hf
      · exact h4 j (by omega) hjf

theorem firstProtected_none_iff {c : Config} {a n : Nat} :
    firstProtected c a n = none ↔ ∀ j, a ≤ j → j < a + n → inFont c j = false := by
  induction n generalizing a with
  | zero => simp [firstProtected]; omega
  | succ n ih =>
    unfold firstProtected
    by_cases hf : inFont c a = true
    · simp only [hf, if_true, reduceCtorEq, false_iff, not_forall]
      exact ⟨a, by omega, by omega, by simp [hf]⟩
    · rw [if_neg hf, ih]
      constructor
      · intro h j h1 h2
        by_cases hja : j = a
        · subst hja; simpa using hf
        · exact h j (by omega) (by omega)
      · intro h j h1 h2
        exact h j (by omega) (by omega)

/-- A store of `n` bytes passes its checks when no byte lies past 0xFFF or in the font region. -/
theorem State.checkWrite_none_iff {s : State} {n : Nat} :
    s.checkWrite n = none ↔ (n = 0 ∨ s.i.toNat + (n - 1) ≤ 0xFFF)
      ∧ ∀ j, s.i.toNat ≤ j → j < s.i.toNat + n → inFont s.cfg j = false := by
  unfold checkWrite
  cases h : s.checkRead n with
  | some e =>
    have := (State.checkRead_some h).2
    simp only [reduceCtorEq, false_iff]
    omega
  | none =>
    have hb := State.checkRead_none_iff.mp h
    simp only [Option.map_eq_none_iff, firstProtected_none_iff, effAddr, Nat.add_zero]
    exact ⟨fun h' => ⟨hb, h'⟩, fun h' => h'.2⟩

/-- A store that fails its checks: the bounds, or else the lowest protected address (60_exceptions.md R203). -/
theorem State.checkWrite_some {s : State} {n : Nat} {e : CoreError} (h : s.checkWrite n = some e) :
    (e = .boundsViolation 0x1000 ∧ 0 < n ∧ s.i.toNat + (n - 1) > 0xFFF)
      ∨ ∃ f, e = .fontWriteProtect f ∧ firstProtected s.cfg s.i.toNat n = some f := by
  unfold checkWrite at h
  cases hc : s.checkRead n with
  | some e' =>
    rw [hc] at h
    cases h
    exact .inl (State.checkRead_some hc)
  | none =>
    rw [hc] at h
    simp only [Option.map_eq_some_iff] at h
    obtain ⟨f, hf, rfl⟩ := h
    exact .inr ⟨f, rfl, hf⟩

/-- The checks of a transfer never answer a fatal error. -/
theorem State.checkWrite_nonFatal {s : State} {n : Nat} {e : CoreError} (h : s.checkWrite n = some e) (c : Config) :
    e.isFatal c = false := by
  rcases State.checkWrite_some h with ⟨rfl, _⟩ | ⟨f, rfl, _⟩ <;> rfl

theorem State.checkRead_nonFatal {s : State} {n : Nat} {e : CoreError} (h : s.checkRead n = some e) (c : Config) :
    e.isFatal c = false := by
  obtain ⟨rfl, _⟩ := State.checkRead_some h; rfl

/-! ### Keys (45_keypad_timers.md) -/

theorem checkKey_none_iff {k : Byte} : checkKey k = none ↔ k.toNat ≤ 0xF := by
  simp only [checkKey, ite_eq_right_iff, reduceCtorEq, imp_false]
  omega

theorem checkKey_some {k : Byte} {e : CoreError} (h : checkKey k = some e) : e = .keyIndexRange k ∧ k.toNat > 0xF := by
  unfold checkKey at h
  split at h
  · next hc => exact ⟨(Option.some.inj h).symm, hc⟩
  · cases h

theorem State.mem_pressedKeys {s : State} {k : Fin 16} : k ∈ s.pressedKeys ↔ s.key[k] = true := by
  simp [pressedKeys]

/-- No key is listed as pressed exactly when none is (45_keypad_timers.md R183). -/
theorem State.pressedKeys_eq_nil {s : State} : s.pressedKeys = [] ↔ ∀ k : Fin 16, s.key[k] = false := by
  simp [List.eq_nil_iff_forall_not_mem, State.mem_pressedKeys]

/-- The chosen key is one of the pressed keys, whatever the draw (45_keypad_timers.md R183). -/
theorem keyChoice_mem {draw : Nat} {p : List (Fin 16)} (h : p ≠ []) : keyChoice draw p ∈ p := by
  have hl : draw % p.length < p.length := Nat.mod_lt _ (List.length_pos_iff.mpr h)
  simp [keyChoice, List.getD_eq_getElem?_getD, List.getElem?_eq_getElem hl]

end Sys2Proof.Machine
end

