-- ==== Sys2Proof/Laws/Cycle.lean ====
section
/-! SUPPORT. What one step does, said once: which event comes next, and the cases of the `Step` event
(40_engine_cycle.md R90). -/

namespace Sys2Proof.Machine

/-- A step is the next event, delivered to the state without it. -/
theorem step_eq (s : State) : step s = deliver s.nextEvent s.takeEvent := rfl

/-- When a `Step` is due, a step is that `Step`. -/
theorem step_of_stepDue {s : State} (h : StepDue s) : step s = cpuStep s.takeEvent := by
  rw [step_eq, show s.nextEvent = .step from h]; rfl

/-- With no event pending a `Step` is due. -/
theorem stepDue_of_nil {s : State} (h : s.pending = []) : StepDue s := by
  simp [StepDue, State.nextEvent, h]

/-- The next event and the rest, when the list is not empty. -/
theorem nextEvent_cons {s : State} {e : Event} {es : List Event} (h : s.pending = e :: es) :
    s.nextEvent = e ∧ s.takeEvent.pending = es := by
  simp [State.nextEvent, State.takeEvent, h]

/-- An engaged engine fetches and executes, its outputs cleared (40_engine_cycle.md R90). -/
theorem cpuStep_engaged {s : State} (h : Engaged s) : cpuStep s = fetchAndExec s.clearOutputs := by
  rcases h with h | h <;> simp [cpuStep, h]

/-- Otherwise the `Step` only clears its two outputs (40_engine_cycle.md R90, R99). -/
theorem cpuStep_resting {s : State} (h : ¬ Engaged s) : cpuStep s = .next s.clearOutputs := by
  unfold Engaged at h
  cases hs : s.status <;> simp_all [cpuStep]

/-- The fetch checks pass exactly when a fetch is permitted (40_engine_cycle.md R91, R92). -/
theorem State.checkFetch_none_iff {s : State} : s.checkFetch = none ↔ CanFetch s := by
  unfold checkFetch CanFetch loadEnd
  split
  · simp_all
  · split
    · simp_all
    · simp_all

/-- A fetch that passes its checks executes the fetched word. -/
theorem fetchAndExec_canFetch {s : State} (h : CanFetch s) : fetchAndExec s = execWord s.fetch s := by
  simp [fetchAndExec, State.checkFetch_none_iff.mpr h]

/-- A recognized word executes its instruction. -/
theorem execWord_some {w : Word} {i : Instr} {s : State} (h : decode w = some i) : execWord w s = exec i s := by
  simp [execWord, h]

/-- An UNRECOGNIZED word raises UNKNOWN_OPCODE (30_encoding.md R78). -/
theorem execWord_none {w : Word} {s : State} (h : decode w = none) :
    execWord w s = .next (s.raise (.unknownOpcode w s.pc)) := by
  simp [execWord, h]

end Sys2Proof.Machine
end

