-- ==== Sys2Proof/Laws/Decode.lean ====
section
/-! SUPPORT. The fields of an encoded word, of a masked word, and a word as its four nibbles (30_encoding.md R71, R75). -/

namespace Sys2Proof

/-! ### Fields of an encoded word -/

section
variable (op x y n : BitVec 4) (kk : Byte) (nnn : BitVec 12)

@[simp] theorem fieldOp_encodeFA : fieldOp (encodeFA op nnn) = op := by
  apply BitVec.eq_of_toNat_eq
  simp [fieldOp, encodeFA, Nat.shiftRight_eq_div_pow]
  omega

@[simp] theorem fieldNnn_encodeFA : fieldNnn (encodeFA op nnn) = nnn := by
  apply BitVec.eq_of_toNat_eq
  simp [fieldNnn, encodeFA]
  omega

@[simp] theorem fieldOp_encodeFI : fieldOp (encodeFI op x kk) = op := by
  apply BitVec.eq_of_toNat_eq
  simp [fieldOp, encodeFI, Nat.shiftRight_eq_div_pow]
  omega

@[simp] theorem fieldX_encodeFI : fieldX (encodeFI op x kk) = x := by
  apply BitVec.eq_of_toNat_eq
  simp [fieldX, encodeFI, Nat.shiftRight_eq_div_pow]
  omega

@[simp] theorem fieldKk_encodeFI : fieldKk (encodeFI op x kk) = kk := by
  apply BitVec.eq_of_toNat_eq
  simp [fieldKk, encodeFI]
  omega

@[simp] theorem fieldOp_encodeFR : fieldOp (encodeFR op x y n) = op := by
  apply BitVec.eq_of_toNat_eq
  simp [fieldOp, encodeFR, Nat.shiftRight_eq_div_pow]
  omega

@[simp] theorem fieldX_encodeFR : fieldX (encodeFR op x y n) = x := by
  apply BitVec.eq_of_toNat_eq
  simp [fieldX, encodeFR, Nat.shiftRight_eq_div_pow]
  omega

@[simp] theorem fieldY_encodeFR : fieldY (encodeFR op x y n) = y := by
  apply BitVec.eq_of_toNat_eq
  simp [fieldY, encodeFR, Nat.shiftRight_eq_div_pow]
  omega

@[simp] theorem fieldN_encodeFR : fieldN (encodeFR op x y n) = n := by
  apply BitVec.eq_of_toNat_eq
  simp [fieldN, encodeFR]
  omega

end

/-! ### A word as its fields -/

/-- Every word is its opcode nibble and its low 12 bits. -/
theorem encodeFA_fields (w : Word) : encodeFA (fieldOp w) (fieldNnn w) = w := by
  apply BitVec.eq_of_toNat_eq
  simp [fieldOp, fieldNnn, encodeFA, Nat.shiftRight_eq_div_pow]
  omega

/-- Every word is its opcode nibble, its second nibble and its low byte. -/
theorem encodeFI_fields (w : Word) : encodeFI (fieldOp w) (fieldX w) (fieldKk w) = w := by
  apply BitVec.eq_of_toNat_eq
  simp [fieldOp, fieldX, fieldKk, encodeFI, Nat.shiftRight_eq_div_pow]
  omega

/-- Every word is its four nibbles. -/
theorem encodeFR_fields (w : Word) : encodeFR (fieldOp w) (fieldX w) (fieldY w) (fieldN w) = w := by
  apply BitVec.eq_of_toNat_eq
  simp [fieldOp, fieldX, fieldY, fieldN, encodeFR, Nat.shiftRight_eq_div_pow]
  omega

/-- Words with the same four nibbles are the same word. -/
theorem word_ext {v w : Word} (ho : fieldOp v = fieldOp w) (hx : fieldX v = fieldX w) (hy : fieldY v = fieldY w)
    (hn : fieldN v = fieldN w) : v = w := by
  rw [← encodeFR_fields v, ← encodeFR_fields w, ho, hx, hy, hn]

/-- The low byte is the two low nibbles. -/
theorem fieldKk_eq_iff {v w : Word} : fieldKk v = fieldKk w ↔ fieldY v = fieldY w ∧ fieldN v = fieldN w := by
  simp only [← BitVec.toNat_inj, fieldKk, fieldY, fieldN, BitVec.extractLsb'_toNat, Nat.shiftRight_eq_div_pow]
  omega

/-! ### Fields of a masked word (30_encoding.md R75) -/

theorem fieldOp_and (w m : Word) : fieldOp (w &&& m) = fieldOp w &&& fieldOp m := BitVec.extractLsb'_and
theorem fieldX_and (w m : Word) : fieldX (w &&& m) = fieldX w &&& fieldX m := BitVec.extractLsb'_and
theorem fieldY_and (w m : Word) : fieldY (w &&& m) = fieldY w &&& fieldY m := BitVec.extractLsb'_and
theorem fieldN_and (w m : Word) : fieldN (w &&& m) = fieldN w &&& fieldN m := BitVec.extractLsb'_and
theorem fieldKk_and (w m : Word) : fieldKk (w &&& m) = fieldKk w &&& fieldKk m := BitVec.extractLsb'_and

/-- A word matches a pattern under a mask when each of its nibbles does. -/
theorem and_eq_iff {w m p : Word} :
    w &&& m = p ↔ fieldOp w &&& fieldOp m = fieldOp p ∧ fieldX w &&& fieldX m = fieldX p
      ∧ fieldY w &&& fieldY m = fieldY p ∧ fieldN w &&& fieldN m = fieldN p := by
  simp only [← fieldOp_and, ← fieldX_and, ← fieldY_and, ← fieldN_and]
  exact ⟨fun h => by simp [h], fun h => word_ext h.1 h.2.1 h.2.2.1 h.2.2.2⟩

theorem and_nibble (a : BitVec 4) : a &&& 0xF#4 = a := by revert a; decide

/-- Mask 0xF000 keeps the opcode nibble (formats FA, FI and FD). -/
theorem and_maskOp (w : Word) : w &&& 0xF000 = encodeFR (fieldOp w) 0 0 0 := by
  rw [and_eq_iff]
  simp [show fieldOp 0xF000#16 = 0xF#4 from rfl, show fieldX 0xF000#16 = 0#4 from rfl, show fieldY 0xF000#16 = 0#4 from rfl,
    show fieldN 0xF000#16 = 0#4 from rfl, and_nibble]

/-- Mask 0xF00F keeps the opcode nibble and the low nibble (format FR). -/
theorem and_maskOpN (w : Word) : w &&& 0xF00F = encodeFR (fieldOp w) 0 0 (fieldN w) := by
  rw [and_eq_iff]
  simp [show fieldOp 0xF00F#16 = 0xF#4 from rfl, show fieldX 0xF00F#16 = 0#4 from rfl, show fieldY 0xF00F#16 = 0#4 from rfl,
    show fieldN 0xF00F#16 = 0xF#4 from rfl, and_nibble]

/-- Mask 0xF0FF keeps the opcode nibble and the low byte (format FX). -/
theorem and_maskOpKk (w : Word) : w &&& 0xF0FF = encodeFI (fieldOp w) 0 (fieldKk w) := by
  have h := fieldKk_eq_iff (v := encodeFI (fieldOp w) 0 (fieldKk w)) (w := w)
  simp only [fieldKk_encodeFI, true_iff] at h
  rw [and_eq_iff]
  simp [show fieldOp 0xF0FF#16 = 0xF#4 from rfl, show fieldX 0xF0FF#16 = 0#4 from rfl, show fieldY 0xF0FF#16 = 0xF#4 from rfl,
    show fieldN 0xF0FF#16 = 0xF#4 from rfl, and_nibble]
  exact ⟨h.1.symm, h.2.symm⟩

/-- A word of format FA, FI or FD is selected by its opcode nibble. -/
theorem fieldOp_of_mask {w : Word} {op : BitVec 4} (h : w &&& 0xF000 = encodeFR op 0 0 0) : fieldOp w = op := by
  rw [and_maskOp] at h
  simpa using congrArg fieldOp h

/-- A word of format FR is selected by its opcode nibble and its low nibble. -/
theorem fieldOpN_of_mask {w : Word} {op n : BitVec 4} (h : w &&& 0xF00F = encodeFR op 0 0 n) :
    fieldOp w = op ∧ fieldN w = n := by
  rw [and_maskOpN] at h
  exact ⟨by simpa using congrArg fieldOp h, by simpa using congrArg fieldN h⟩

/-- A word of format FX is selected by its opcode nibble and its low byte. -/
theorem fieldOpKk_of_mask {w : Word} {op : BitVec 4} {kk : Byte} (h : w &&& 0xF0FF = encodeFI op 0 kk) :
    fieldOp w = op ∧ fieldKk w = kk := by
  rw [and_maskOpKk] at h
  exact ⟨by simpa using congrArg fieldOp h, by simpa using congrArg fieldKk h⟩

/-! ### Bytes of a word (20_memory.md R54) -/

@[simp] theorem wordOfBytes_hi_lo (w : Word) : wordOfBytes (wordHi w) (wordLo w) = w := by
  apply BitVec.eq_of_getLsbD_eq
  intro i hi
  simp only [wordOfBytes, wordHi, wordLo]
  rw [BitVec.getLsbD_append]
  split
  · simp; omega
  · next h =>
    have : 8 + (i - 8) = i := by omega
    simp [this]; omega

/-- Decoding the bytes of an encoded instruction is decoding its word. -/
theorem decodeBytes_encodeBytes (i : Instr) (rest : List Byte) (h : decode (encode i) = some i) :
    decodeBytes (encodeBytes i ++ rest) = .instr i rest := by
  simp [encodeBytes, decodeBytes, h]

/-- The bytes of a table word are its word, high byte first (20_memory.md R54). -/
theorem decodeTableWord_eq (w : Nat) : decodeTableWord 16 w = decode (BitVec.ofNat 16 w) := by
  have : BitVec.ofNat 16 (w % 2 ^ 16) = BitVec.ofNat 16 w := by
    apply BitVec.eq_of_toNat_eq; simp
  simp only [decodeTableWord, tableWordBytes, decodeBytes, wordOfBytes_hi_lo, this]
  cases decode (BitVec.ofNat 16 w) <;> rfl

end Sys2Proof
end

