-- ==== Sys2Proof/Laws/Display.lean ====
section
/-! SUPPORT. Pixels: what toggling one does to each, two buffers with the same pixels, and what a whole sprite draws
(44_display.md R170). -/

namespace Sys2Proof.Machine

/-- Toggling a pixel changes that pixel and no other (44_display.md R170). -/
theorem pixelAt_flipPixel (f : FrameBuffer) (x x' : Fin 64) (y y' : Fin 32) :
    pixelAt (flipPixel f x y) x' y' = if x' = x ∧ y' = y then !(pixelAt f x y) else pixelAt f x' y' := by
  have e : (flipPixel f x y)[y'] = if y' = y then f[y].set x.val (!(pixelAt f x y)) x.isLt else f[y'] := by
    simp only [flipPixel, Fin.getElem_fin, Vector.getElem_set, Fin.val_inj, eq_comm]
  unfold pixelAt at e ⊢
  rw [e]
  by_cases hy : y' = y
  · subst hy
    simp only [if_true, and_true, Fin.getElem_fin, Vector.getElem_set, Fin.val_inj, eq_comm]
  · simp [hy]

/-- Buffers with the same pixels are equal. -/
theorem frameBuffer_ext {f g : FrameBuffer} (h : ∀ x y, pixelAt f x y = pixelAt g x y) : f = g := by
  apply Vector.ext
  intro y hy
  apply Vector.ext
  intro x hx
  exact h ⟨x, hx⟩ ⟨y, hy⟩

@[simp] theorem pixelAt_clearFb (x : Fin 64) (y : Fin 32) : pixelAt clearFb x y = false := by
  simp [pixelAt, clearFb]

/-- One plotted pixel: the buffer, and the collision bit kept or set (44_display.md R170). -/
theorem plot_eq (acc : FrameBuffer × Bool) (x : Fin 64) (y : Fin 32) :
    plot acc x y = (flipPixel acc.1 x y, acc.2 || pixelAt acc.1 x y) := rfl

/-- A sprite of no rows draws nothing and does not collide (44_display.md R171). -/
@[simp] theorem State.drawSprite_zero (s : State) (ox oy : Byte) : s.drawSprite ox oy 0 = (s.fb, false) := rfl

/-- A sprite row by row (44_display.md R170). -/
theorem State.drawSprite_succ (s : State) (ox oy : Byte) (h : Nat) :
    s.drawSprite ox oy (h + 1) = drawRow (s.readByte (s.effAddr h)) ox oy h (s.drawSprite ox oy h) := by
  simp [drawSprite, List.range_succ]

/-! ### A whole sprite -/

/-- Two sprite bits land on one pixel only when they are the same bit: 8 columns and at most 15 rows never wrap onto
themselves (44_display.md R170). -/
theorem spritePos_inj {ox oy : Byte} {r r' c c' : Nat} (hr : r < 16) (hr' : r' < 16) (hc : c < 8) (hc' : c' < 8)
    (hx : spriteX ox c = spriteX ox c') (hy : spriteY oy r = spriteY oy r') : r = r' ∧ c = c' := by
  have h1 := congrArg Fin.val hx
  have h2 := congrArg Fin.val hy
  simp [spriteX, spriteY, Fin.ofNat] at h1 h2
  omega

/-- Starting from `f`, exactly the pixels of `P` have been toggled, each once, and the collision bit says whether one of
them was set. -/
def Toggled (P : Fin 64 → Fin 32 → Prop) (f : FrameBuffer) (acc : FrameBuffer × Bool) : Prop :=
  (∀ x y, P x y → pixelAt acc.1 x y = !(pixelAt f x y)) ∧ (∀ x y, ¬ P x y → pixelAt acc.1 x y = pixelAt f x y)
    ∧ (acc.2 = true ↔ ∃ x y, P x y ∧ pixelAt f x y = true)

theorem Toggled.congr {P Q : Fin 64 → Fin 32 → Prop} {f : FrameBuffer} {acc : FrameBuffer × Bool} (h : Toggled P f acc)
    (hpq : ∀ x y, P x y ↔ Q x y) : Toggled Q f acc := by
  rw [← show P = Q from funext fun x => funext fun y => propext (hpq x y)]
  exact h

/-- Plotting one more pixel. -/
theorem Toggled.plot {P : Fin 64 → Fin 32 → Prop} {f : FrameBuffer} {acc : FrameBuffer × Bool} (h : Toggled P f acc)
    (x : Fin 64) (y : Fin 32) (hn : ¬ P x y) :
    Toggled (fun x' y' => P x' y' ∨ (x' = x ∧ y' = y)) f (Machine.plot acc x y) := by
  obtain ⟨h1, h2, h3⟩ := h
  refine ⟨fun x' y' hp => ?_, fun x' y' hp => ?_, ?_⟩
  · simp only [plot_eq, pixelAt_flipPixel]
    split
    · next hh => rw [h2 _ _ hn, hh.1, hh.2]
    · next hh => exact h1 _ _ (hp.resolve_right hh)
  · simp only [plot_eq, pixelAt_flipPixel]
    rw [if_neg (fun hh => hp (.inr hh))]
    exact h2 _ _ (fun hh => hp (.inl hh))
  · simp only [plot_eq, Bool.or_eq_true, h3, h2 _ _ hn]
    constructor
    · rintro (⟨x', y', hp, hv⟩ | hv)
      · exact ⟨x', y', .inl hp, hv⟩
      · exact ⟨x, y, .inr ⟨rfl, rfl⟩, hv⟩
    · rintro ⟨x', y', hp | ⟨rfl, rfl⟩, hv⟩
      · exact .inl ⟨x', y', hp, hv⟩
      · exact .inr hv

/-- Sprite bit (`r`, `c`) is set and lands on this pixel. -/
def hitsAt (s : State) (ox oy : Byte) (r c : Nat) (x : Fin 64) (y : Fin 32) : Prop :=
  spriteBit s r c = true ∧ x = spriteX ox c ∧ y = spriteY oy r

/-- A bit of the first `n` rows, or of the first `m` columns of row `n`, lands on this pixel. -/
def hitsBefore (s : State) (ox oy : Byte) (n m : Nat) (x : Fin 64) (y : Fin 32) : Prop :=
  (∃ r, r < n ∧ ∃ c, c < 8 ∧ hitsAt s ox oy r c x y) ∨ ∃ c, c < m ∧ hitsAt s ox oy n c x y

/-- The first `m` columns of a row, after the rows before it. -/
theorem toggled_columns (s : State) (ox oy : Byte) {n : Nat} (hn : n < 16) {f : FrameBuffer} {acc : FrameBuffer × Bool}
    (h : Toggled (hitsBefore s ox oy n 0) f acc) {m : Nat} (hm : m ≤ 8) :
    Toggled (hitsBefore s ox oy n m) f ((List.range m).foldl (fun acc c =>
      if (s.readByte (s.effAddr n)).getLsbD (7 - c) then Machine.plot acc (spriteX ox c) (spriteY oy n) else acc) acc) := by
  induction m with
  | zero => exact h
  | succ m ih =>
    rw [List.range_succ, List.foldl_append]
    simp only [List.foldl_cons, List.foldl_nil]
    have ih := ih (by omega)
    split
    · next hb =>
      refine (ih.plot _ _ ?_).congr fun x y => ⟨?_, ?_⟩
      · rintro (⟨r, hr, c, hc, _, hx, hy⟩ | ⟨c, hc, _, hx, hy⟩)
        · have := spritePos_inj hn (by omega) (by omega) hc hx hy
          omega
        · have := spritePos_inj hn hn (by omega) (by omega) hx hy
          omega
      · rintro ((h | ⟨c, hc, h⟩) | ⟨rfl, rfl⟩)
        · exact .inl h
        · exact .inr ⟨c, by omega, h⟩
        · exact .inr ⟨m, by omega, hb, rfl, rfl⟩
      · rintro (h | ⟨c, hc, h⟩)
        · exact .inl (.inl h)
        · by_cases hcm : c = m
          · subst hcm
            exact .inr ⟨h.2.1, h.2.2⟩
          · exact .inl (.inr ⟨c, by omega, h⟩)
    · next hb =>
      refine ih.congr fun x y => ⟨?_, ?_⟩
      · rintro (h | ⟨c, hc, h⟩)
        · exact .inl h
        · exact .inr ⟨c, by omega, h⟩
      · rintro (h | ⟨c, hc, h⟩)
        · exact .inl h
        · by_cases hcm : c = m
          · subst hcm
            exact absurd h.1 hb
          · exact .inr ⟨c, by omega, h⟩

/-- What `DrawSprite` does to every pixel, and its collision bit (44_display.md R170). -/
theorem State.drawSprite_toggles (s : State) (ox oy : Byte) {n : Nat} (hn : n < 16) :
    Toggled (togglesPixel s ox oy n) s.fb (s.drawSprite ox oy n) := by
  have h : Toggled (hitsBefore s ox oy n 0) s.fb (s.drawSprite ox oy n) := by
    induction n with
    | zero => exact ⟨fun x y h => by simp [hitsBefore] at h, fun _ _ _ => rfl, by simp [hitsBefore]⟩
    | succ n ih =>
      rw [State.drawSprite_succ]
      refine (toggled_columns s ox oy (by omega) (ih (by omega)) (le_refl 8)).congr fun x y => ⟨?_, ?_⟩
      · rintro (⟨r, hr, h⟩ | ⟨c, hc, h⟩)
        · exact .inl ⟨r, by omega, h⟩
        · exact .inl ⟨n, by omega, c, hc, h⟩
      · rintro (⟨r, hr, h⟩ | ⟨c, hc, h⟩)
        · by_cases hrn : r = n
          · subst hrn
            exact .inr h
          · exact .inl ⟨r, by omega, h⟩
        · omega
  refine h.congr fun x y => ⟨?_, ?_⟩
  · rintro (⟨r, hr, c, hc, hb, rfl, rfl⟩ | ⟨c, hc, _⟩)
    · exact ⟨r, hr, c, hc, hb, rfl, rfl⟩
    · omega
  · rintro ⟨r, hr, c, hc, hb, hx, hy⟩
    exact .inl ⟨r, hr, c, hc, hb, Fin.ext hx, Fin.ext hy⟩

end Sys2Proof.Machine
end

