-- ==== Sys2Proof/Laws/Exec.lean ====
section
/-! SUPPORT. What an instruction can do, said once: it is rejected with one of the errors its rule names, or it completes
with the effect its rule gives. Every whole-machine fact starts from `exec_cases` instead of unfolding `exec`. -/

namespace Sys2Proof.Machine

/-- The instruction completes from `s` to `t` with the effect its rule gives (files 41 to 45 of spec/). -/
def Completed (i : Instr) (s t : State) : Prop :=
  match i with
  | .cls => t = (s.setFb clearFb).advance
  | .ret => t = s.pop.goto s.topOfStack
  | .jp nnn => t = if zextNnn nnn = s.pc then s.goIdle (zextNnn nnn) else s.goto (zextNnn nnn)
  | .call nnn => ∃ u, s.push (s.pc + 2) = some u ∧ t = u.goto (zextNnn nnn)
  | .seVxByte x kk => t = s.skipIf (s.readV x == kk)
  | .sneVxByte x kk => t = s.skipIf (s.readV x != kk)
  | .seVxVy x y => t = s.skipIf (s.readV x == s.readV y)
  | .ldVxByte x kk => t = (s.setV x kk).advance
  | .addVxByte x kk => t = (s.setV x (s.readV x + kk)).advance
  | .ldVxVy x y => t = (s.setV x (s.readV y)).advance
  | .orVxVy x y => t = (s.setV x (s.readV x ||| s.readV y)).advance
  | .andVxVy x y => t = (s.setV x (s.readV x &&& s.readV y)).advance
  | .xorVxVy x y => t = (s.setV x (s.readV x ^^^ s.readV y)).advance
  | .addVxVy x y => t = (s.setResultAndFlag x (s.readV x + s.readV y) (carryFlag (s.readV x) (s.readV y))).advance
  | .subVxVy x y => t = (s.setResultAndFlag x (s.readV x - s.readV y) (noBorrowFlag (s.readV x) (s.readV y))).advance
  | .shrVx x => t = (s.setResultAndFlag x (s.readV x >>> 1) (shiftedOutRight (s.readV x))).advance
  | .subnVxVy x y => t = (s.setResultAndFlag x (s.readV y - s.readV x) (noBorrowFlag (s.readV y) (s.readV x))).advance
  | .shlVx x => t = (s.setResultAndFlag x (s.readV x <<< 1) (shiftedOutLeft (s.readV x))).advance
  | .sneVxVy x y => t = s.skipIf (s.readV x != s.readV y)
  | .ldIAddr nnn => t = (s.setI (zextNnn nnn)).advance
  | .jpV0Addr nnn => t = s.goto (s.offsetTarget nnn)
  | .rndVxByte x kk => t = (s.setRandom (Config.rndDraw s.draws) x kk).advance
  | .drw x y n => s.checkRead n.toNat = none ∧
      t = ((s.setFb (s.drawSprite (s.readV x) (s.readV y) n.toNat).1).setV vf (flagByte (s.drawSprite
        (s.readV x) (s.readV y) n.toNat).2)).advance
  | .skpVx x => t = s.skipIf (s.keyDown (s.readV x))
  | .sknpVx x => t = s.skipIf (!(s.keyDown (s.readV x)))
  | .ldVxDt x => t = (s.setV x s.dt).advance
  | .ldVxK x => t = if s.pressedKeys.isEmpty then s.awaitKey else (s.takeKey (Config.keyDraw s.draws) x).advance
  | .ldDtVx x => t = (s.setDt (s.readV x)).advance
  | .ldStVx x => t = (s.setSt (s.readV x)).advance
  | .addIVx x =>
    t = ((s.setI (indexResult (s.indexSum (s.readV x)))).setV vf (indexOverflow (s.indexSum (s.readV x)))).advance
  | .ldFVx x => t = (s.setI (glyphAddr s.cfg (s.readV x))).advance
  | .ldBVx x => s.checkWrite 3 = none ∧ t = (s.writeBytes (s.effAddr 0) (bcdDigits (s.readV x))).advance
  | .ldMemVx x => s.checkWrite (x.toNat + 1) = none ∧ t = (s.writeBytes (s.effAddr 0) (s.regRange x)).advance
  | .ldVxMem x => s.checkRead (x.toNat + 1) = none ∧ t = (s.loadRegs x (fun k => s.readByte (s.effAddr k))).advance

/-- An instruction that answers a next state is rejected with a non-fatal error that its rule names, or completes. -/
theorem exec_cases {i : Instr} {s t : State} (h : exec i s = .next t) :
    (∃ e, e.isFatal s.cfg = false ∧ raisedBy e i s ∧ (∀ p, e ≠ .stackUnderflow p) ∧ t = s.raise e)
      ∨ Completed i s t := by
  cases i
  case jp nnn =>
    simp only [exec, execJp] at h
    right
    simp only [Completed]
    split at h <;> simp_all
  case call nnn =>
    simp only [exec, execCall] at h
    split at h
    · next u hu => right; exact ⟨u, hu, (Host.Outcome.next.inj h).symm⟩
    · next hu =>
      refine .inl ⟨.stackOverflow s.pc, rfl, ⟨⟨nnn, rfl⟩, ?_, rfl⟩, by simp,
        (Host.Outcome.next.inj h).symm⟩
      have hsp := s.sp.isLt
      unfold State.push at hu
      split at hu
      · cases hu
      · omega
  case drw x y n =>
    simp only [exec, execDrw] at h
    split at h
    · next e he =>
      obtain ⟨rfl, hpos, hb⟩ := State.checkRead_some he
      exact .inl ⟨.boundsViolation 0x1000, rfl, ⟨rfl, .inl ⟨x, y, n, rfl, hpos, hb⟩⟩, by simp,
        (Host.Outcome.next.inj h).symm⟩
    · next he => exact .inr ⟨he, (Host.Outcome.next.inj h).symm⟩
  case ldVxMem x =>
    simp only [exec, execLdVxMem] at h
    split at h
    · next e he =>
      obtain ⟨rfl, _, hb⟩ := State.checkRead_some he
      exact .inl ⟨.boundsViolation 0x1000, rfl, ⟨rfl, .inr (.inr (.inr ⟨x, rfl, hb⟩))⟩, by simp,
        (Host.Outcome.next.inj h).symm⟩
    · next he => exact .inr ⟨he, (Host.Outcome.next.inj h).symm⟩
  case ldBVx x =>
    simp only [exec, execLdBVx] at h
    split at h
    · next e he =>
      left
      rcases State.checkWrite_some he with ⟨rfl, _, hb⟩ | ⟨f, rfl, hf⟩
      · exact ⟨.boundsViolation 0x1000, rfl, ⟨rfl, .inr (.inl ⟨x, rfl, hb⟩)⟩, by simp,
        (Host.Outcome.next.inj h).symm⟩
      · obtain ⟨h1, h2, h3, _⟩ := firstProtected_some hf
        exact ⟨.fontWriteProtect f, rfl, ⟨h3, .inl ⟨x, rfl, h1, Nat.le_of_lt_succ h2⟩⟩, by simp,
          (Host.Outcome.next.inj h).symm⟩
    · next he => exact .inr ⟨he, (Host.Outcome.next.inj h).symm⟩
  case ldMemVx x =>
    simp only [exec, execLdMemVx] at h
    split at h
    · next e he =>
      left
      rcases State.checkWrite_some he with ⟨rfl, _, hb⟩ | ⟨f, rfl, hf⟩
      · exact ⟨.boundsViolation 0x1000, rfl, ⟨rfl, .inr (.inr (.inl ⟨x, rfl, hb⟩))⟩, by simp,
        (Host.Outcome.next.inj h).symm⟩
      · obtain ⟨h1, h2, h3, _⟩ := firstProtected_some hf
        exact ⟨.fontWriteProtect f, rfl, ⟨h3, .inr ⟨x, rfl, h1, Nat.le_of_lt_succ h2⟩⟩, by simp,
          (Host.Outcome.next.inj h).symm⟩
    · next he => exact .inr ⟨he, (Host.Outcome.next.inj h).symm⟩
  case skpVx x =>
    simp only [exec, execSkpVx] at h
    split at h
    · next e he =>
      obtain ⟨rfl, hk⟩ := checkKey_some he
      exact .inl ⟨.keyIndexRange (s.readV x), rfl, ⟨hk, x, rfl, .inl rfl⟩, by simp,
        (Host.Outcome.next.inj h).symm⟩
    · exact .inr (Host.Outcome.next.inj h).symm
  case sknpVx x =>
    simp only [exec, execSknpVx] at h
    split at h
    · next e he =>
      obtain ⟨rfl, hk⟩ := checkKey_some he
      exact .inl ⟨.keyIndexRange (s.readV x), rfl, ⟨hk, x, rfl, .inr rfl⟩, by simp,
        (Host.Outcome.next.inj h).symm⟩
    · exact .inr (Host.Outcome.next.inj h).symm
  case ldVxK x =>
    simp only [exec, execLdVxK] at h
    right
    simp only [Completed]
    split at h <;> simp_all
  all_goals exact .inr (Host.Outcome.next.inj h).symm

end Sys2Proof.Machine
end

