-- ==== Sys2Proof/Laws/Operands.lean ====
section
/-! SUPPORT. Operand forms and flags as numbers (30_encoding.md R73; 42_alu.md R130; 43_index_memory.md). -/

namespace Sys2Proof.Machine

@[simp] theorem zextNnn_toNat (nnn : BitVec 12) : (zextNnn nnn).toNat = nnn.toNat := by
  have := nnn.isLt
  simp [zextNnn]
  omega

@[simp] theorem zextByte_toNat (b : Byte) : (zextByte b).toNat = b.toNat := by
  have := b.isLt
  simp [zextByte]
  omega

/-- The target of `BNNN` never wraps (41_control_flow.md R116, 10_state.md R26). -/
@[simp] theorem State.offsetTarget_toNat (s : State) (nnn : BitVec 12) :
    (s.offsetTarget nnn).toNat = nnn.toNat + (s.readV 0).toNat := by
  have := nnn.isLt
  have := (s.readV 0).isLt
  simp [offsetTarget]
  omega

theorem zextNnn_eq_iff {nnn : BitVec 12} {w : Word} : zextNnn nnn = w ↔ nnn.toNat = w.toNat := by
  rw [← BitVec.toNat_inj, zextNnn_toNat]

/-- A word is odd when its bit 0 is set (10_state.md R27). -/
theorem odd_iff {w : Word} : w.getLsbD 0 = true ↔ w.toNat % 2 = 1 := by
  simp [BitVec.getLsbD, Nat.testBit_zero]

theorem even_iff {w : Word} : w.getLsbD 0 = false ↔ w.toNat % 2 = 0 := by
  simp [BitVec.getLsbD, Nat.testBit_zero]

/-- The effective address of byte `k` (43_index_memory.md, introduction). -/
theorem State.effAddr_eq (s : State) (k : Nat) : s.effAddr k = s.i.toNat + k := rfl

/-- The low nibble of a byte is its remainder by 16 (43_index_memory.md R152). -/
theorem lowNibble_toNat (b : Byte) : (b &&& 0x0F).toNat = b.toNat % 16 := by
  rw [BitVec.toNat_and]
  exact Nat.and_two_pow_sub_one_eq_mod b.toNat 4

/-- A glyph's address, under a legal font base (43_index_memory.md R152). -/
theorem glyphAddr_toNat {c : Config} (h : c.fontBase + 80 ≤ 0x200) (b : Byte) :
    (glyphAddr c b).toNat = c.fontBase + b.toNat % 16 * 5 := by
  rw [glyphAddr, lowNibble_toNat, BitVec.toNat_ofNat]
  omega

/-- The 12-bit reduction of `FX1E` (43_index_memory.md R151). -/
theorem indexResult_toNat (n : Nat) : (indexResult n).toNat = n % 0x1000 := by
  rw [indexResult, BitVec.toNat_and, BitVec.toNat_ofNat]
  rw [show (0x0FFF : Word).toNat = 2 ^ 12 - 1 from rfl, Nat.and_two_pow_sub_one_eq_mod]
  omega

@[simp] theorem flagByte_true : flagByte true = 1 := rfl
@[simp] theorem flagByte_false : flagByte false = 0 := rfl

/-- The bit a right shift moves out is the remainder by 2 (42_alu.md R139). -/
theorem shiftedOutRight_toNat (a : Byte) : (shiftedOutRight a).toNat = a.toNat % 2 := by
  simp [shiftedOutRight]

/-- The bit a left shift moves out is the quotient by 128 (42_alu.md R141). -/
theorem shiftedOutLeft_toNat (a : Byte) : (shiftedOutLeft a).toNat = a.toNat / 128 := by
  have := a.isLt
  simp [shiftedOutLeft, Nat.shiftRight_eq_div_pow]
  omega

end Sys2Proof.Machine
end

