-- ==== Sys2Proof/Laws/Effects.lean ====
section
/-! SUPPORT. What a completed instruction can do to each part of the state, said once over all instructions. -/

namespace Sys2Proof.Machine

/-- The elements no instruction changes (10_state.md R35, R39; 00_scope.md R8). -/
theorem completed_keeps {i : Instr} {s t : State} (hc : Completed i s t) :
    t.cfg = s.cfg ∧ t.romLen = s.romLen ∧ t.key = s.key ∧ t.pending = s.pending ∧ t.faultCode = s.faultCode
      ∧ t.faultPc = s.faultPc := by
  cases i <;> simp only [Completed] at hc
  case jp => split at hc <;> subst hc <;> simp
  case ldVxK x => split at hc <;> subst hc <;> simp [State.takeKey]
  case call =>
    obtain ⟨u, hu, rfl⟩ := hc
    obtain ⟨hs, rfl⟩ := State.push_some hu
    simp
  case ret =>
    subst hc
    simp only [State.pop]
    split <;> simp
  case drw => obtain ⟨_, rfl⟩ := hc; simp
  case ldBVx => obtain ⟨_, rfl⟩ := hc; simp
  case ldMemVx => obtain ⟨_, rfl⟩ := hc; simp
  case ldVxMem => obtain ⟨_, rfl⟩ := hc; simp
  case rndVxByte => subst hc; simp [State.setRandom]
  all_goals subst hc; simp

/-- Memory stays, or bytes that passed their checks are written from I up (43_index_memory.md R153, R154). -/
theorem completed_mem {i : Instr} {s t : State} (hc : Completed i s t) :
    t.mem = s.mem ∨ ∃ bs, s.checkWrite bs.length = none ∧ t.mem = Memory.writeList s.cfg s.mem s.i.toNat bs := by
  cases i <;> simp only [Completed] at hc
  case jp => split at hc <;> subst hc <;> simp
  case ldVxK x => split at hc <;> subst hc <;> simp [State.takeKey]
  case call =>
    obtain ⟨u, hu, rfl⟩ := hc
    obtain ⟨hs, rfl⟩ := State.push_some hu
    simp
  case ret =>
    subst hc
    simp only [State.pop]
    split <;> simp
  case drw => obtain ⟨_, rfl⟩ := hc; simp
  case ldBVx x => obtain ⟨h, rfl⟩ := hc; exact .inr ⟨bcdDigits (s.readV x), h, rfl⟩
  case ldMemVx x => obtain ⟨h, rfl⟩ := hc; exact .inr ⟨s.regRange x, by rw [State.regRange_length]; exact h, rfl⟩
  case ldVxMem => obtain ⟨_, rfl⟩ := hc; simp
  case rndVxByte => subst hc; simp [State.setRandom]
  all_goals subst hc; simp

/-- The only error a completed instruction signals is the STACK_UNDERFLOW of `RET` (41_control_flow.md R117). -/
theorem completed_errors {i : Instr} {s t : State} (hc : Completed i s t) :
    (t.errlog = s.errlog ∧ t.errOut = s.errOut)
      ∨ (i = .ret ∧ s.sp.val = 0 ∧ t.errOut = some (.stackUnderflow s.pc)
        ∧ t.errlog = s.errlog ||| 1#16 <<< (CoreError.stackUnderflow s.pc).code.toNat) := by
  cases i <;> simp only [Completed] at hc
  case jp => split at hc <;> subst hc <;> simp
  case ldVxK x => split at hc <;> subst hc <;> simp [State.takeKey]
  case call =>
    obtain ⟨u, hu, rfl⟩ := hc
    obtain ⟨hs, rfl⟩ := State.push_some hu
    simp
  case ret =>
    subst hc
    by_cases h0 : s.sp.val = 0
    · rw [(State.pop_empty h0).1]
      exact .inr ⟨rfl, h0, rfl, rfl⟩
    · rw [(State.pop_held h0).1]
      exact .inl ⟨rfl, rfl⟩
  case drw => obtain ⟨_, rfl⟩ := hc; simp
  case ldBVx => obtain ⟨_, rfl⟩ := hc; simp
  case ldMemVx => obtain ⟨_, rfl⟩ := hc; simp
  case ldVxMem => obtain ⟨_, rfl⟩ := hc; simp
  case rndVxByte => subst hc; simp [State.setRandom]
  all_goals subst hc; simp

/-- The status of a completed instruction: RUNNING, or at rest on the instruction itself (40_engine_cycle.md R95). -/
theorem completed_status {i : Instr} {s t : State} (hc : Completed i s t) :
    (t.status = .running ∧ t.selfJump = s.selfJump)
      ∨ (t.status = .awaitingKey ∧ (∃ x, i = .ldVxK x) ∧ s.pressedKeys = [] ∧ t = s.awaitKey)
      ∨ (t.status = .idle ∧ ∃ nnn, i = .jp nnn ∧ zextNnn nnn = s.pc ∧ t = s.goIdle s.pc) := by
  cases i <;> simp only [Completed] at hc
  case jp n =>
    split at hc
    · next h => subst hc; exact .inr (.inr ⟨rfl, n, rfl, h, by rw [h]⟩)
    · subst hc; simp
  case ldVxK x =>
    split at hc
    · next h => subst hc; exact .inr (.inl ⟨rfl, ⟨x, rfl⟩, by simpa using h, rfl⟩)
    · subst hc; simp [State.takeKey]
  case call n =>
    obtain ⟨u, hu, rfl⟩ := hc
    obtain ⟨hs, rfl⟩ := State.push_some hu
    simp
  case ret =>
    subst hc
    simp only [State.pop]
    split <;> simp
  case drw => obtain ⟨_, rfl⟩ := hc; simp
  case ldBVx => obtain ⟨_, rfl⟩ := hc; simp
  case ldMemVx => obtain ⟨_, rfl⟩ := hc; simp
  case ldVxMem => obtain ⟨_, rfl⟩ := hc; simp
  case rndVxByte => subst hc; simp [State.setRandom]
  all_goals subst hc; simp

/-! ### PC where a fetch is permitted (10_state.md R26) -/

theorem canFetch_bound {s : State} (h : CanFetch s) : s.pc.toNat ≤ 4094 ∧ s.pc.toNat % 2 = 0 := by
  have := s.romLen.isLt
  have := h.2
  exact ⟨by omega, even_iff.mp h.1⟩

/-- After an instruction that was fetched, PC does not wrap. -/
theorem canFetch_advance {s : State} (h : CanFetch s) :
    (s.pc + 2).toNat = s.pc.toNat + 2 ∧ (s.pc + 4).toNat = s.pc.toNat + 4 := by
  have := canFetch_bound h
  constructor <;> (rw [BitVec.toNat_add]; simp; omega)

end Sys2Proof.Machine
end

