-- ==== Sys2Proof/Laws/Events.lean ====
section
/-! SUPPORT. The events other than `Step`, said once: a timer tick, a reset that fits, the order of a tick's events
(60_exceptions.md R210 to R214, 70_reset_and_hazards.md R230), and what the invariant looks at. -/

namespace Sys2Proof.Machine

/-! ### TimerTick (60_exceptions.md R210, R211) -/

/-- One timer falls by one and stops at zero. -/
theorem decTimer_toNat (t : Byte) : (decTimer t).toNat = t.toNat - 1 := by
  have := t.isLt
  unfold decTimer
  split
  · rw [BitVec.toNat_sub]
    simp
    omega
  · omega

/-- In FAULTED a timer tick changes nothing. -/
theorem State.timerTick_faulted {s : State} (h : s.status = .faulted) : s.timerTick = s := by
  simp [State.timerTick, h]

/-- In every other status both timers fall. -/
theorem State.timerTick_counting {s : State} (h : s.status ≠ .faulted) :
    s.timerTick = { s with dt := decTimer s.dt, st := decTimer s.st } := by
  cases hs : s.status <;> simp_all [State.timerTick]

@[simp] theorem State.timerTick_v (s : State) : s.timerTick.v = s.v := by
  unfold State.timerTick; split <;> rfl

@[simp] theorem State.timerTick_i (s : State) : s.timerTick.i = s.i := by
  unfold State.timerTick; split <;> rfl

@[simp] theorem State.timerTick_pc (s : State) : s.timerTick.pc = s.pc := by
  unfold State.timerTick; split <;> rfl

@[simp] theorem State.timerTick_stk (s : State) : s.timerTick.stk = s.stk := by
  unfold State.timerTick; split <;> rfl

@[simp] theorem State.timerTick_sp (s : State) : s.timerTick.sp = s.sp := by
  unfold State.timerTick; split <;> rfl

@[simp] theorem State.timerTick_key (s : State) : s.timerTick.key = s.key := by
  unfold State.timerTick; split <;> rfl

@[simp] theorem State.timerTick_fb (s : State) : s.timerTick.fb = s.fb := by
  unfold State.timerTick; split <;> rfl

@[simp] theorem State.timerTick_mem (s : State) : s.timerTick.mem = s.mem := by
  unfold State.timerTick; split <;> rfl

@[simp] theorem State.timerTick_status (s : State) : s.timerTick.status = s.status := by
  unfold State.timerTick; split <;> rfl

@[simp] theorem State.timerTick_faultCode (s : State) : s.timerTick.faultCode = s.faultCode := by
  unfold State.timerTick; split <;> rfl

@[simp] theorem State.timerTick_faultPc (s : State) : s.timerTick.faultPc = s.faultPc := by
  unfold State.timerTick; split <;> rfl

@[simp] theorem State.timerTick_errlog (s : State) : s.timerTick.errlog = s.errlog := by
  unfold State.timerTick; split <;> rfl

@[simp] theorem State.timerTick_errOut (s : State) : s.timerTick.errOut = s.errOut := by
  unfold State.timerTick; split <;> rfl

@[simp] theorem State.timerTick_selfJump (s : State) : s.timerTick.selfJump = s.selfJump := by
  unfold State.timerTick; split <;> rfl

@[simp] theorem State.timerTick_romLen (s : State) : s.timerTick.romLen = s.romLen := by
  unfold State.timerTick; split <;> rfl

@[simp] theorem State.timerTick_cfg (s : State) : s.timerTick.cfg = s.cfg := by
  unfold State.timerTick; split <;> rfl

@[simp] theorem State.timerTick_pending (s : State) : s.timerTick.pending = s.pending := by
  unfold State.timerTick; split <;> rfl

@[simp] theorem State.timerTick_draws (s : State) : s.timerTick.draws = s.draws := by
  unfold State.timerTick; split <;> rfl

/-! ### Reset (70_reset_and_hazards.md R230) -/

/-- A `Reset` whose image fits answers the reset state with that image. -/
theorem doReset_fits {image : List Byte} (s : State) (h : image.length < 3585) :
    doReset image s = .next (s.afterReset image h) := by
  simp [doReset, h]

/-- A longer image is refused (60_exceptions.md R209). -/
theorem doReset_oversize {image : List Byte} (s : State) (h : ¬ image.length < 3585) :
    doReset image s = .refused (.imageTooLong image.length) := by
  simp [doReset, h]

@[simp] theorem State.afterReset_v (s : State) (image : List Byte) (h : image.length < 3585) :
    (s.afterReset image h).v = State.reset.v := rfl

@[simp] theorem State.afterReset_i (s : State) (image : List Byte) (h : image.length < 3585) :
    (s.afterReset image h).i = State.reset.i := rfl

@[simp] theorem State.afterReset_pc (s : State) (image : List Byte) (h : image.length < 3585) :
    (s.afterReset image h).pc = State.reset.pc := rfl

@[simp] theorem State.afterReset_dt (s : State) (image : List Byte) (h : image.length < 3585) :
    (s.afterReset image h).dt = State.reset.dt := rfl

@[simp] theorem State.afterReset_st (s : State) (image : List Byte) (h : image.length < 3585) :
    (s.afterReset image h).st = State.reset.st := rfl

@[simp] theorem State.afterReset_stk (s : State) (image : List Byte) (h : image.length < 3585) :
    (s.afterReset image h).stk = State.reset.stk := rfl

@[simp] theorem State.afterReset_sp (s : State) (image : List Byte) (h : image.length < 3585) :
    (s.afterReset image h).sp = State.reset.sp := rfl

@[simp] theorem State.afterReset_key (s : State) (image : List Byte) (h : image.length < 3585) :
    (s.afterReset image h).key = State.reset.key := rfl

@[simp] theorem State.afterReset_fb (s : State) (image : List Byte) (h : image.length < 3585) :
    (s.afterReset image h).fb = State.reset.fb := rfl

@[simp] theorem State.afterReset_mem (s : State) (image : List Byte) (h : image.length < 3585) :
    (s.afterReset image h).mem = Memory.ofImage s.cfg 0x200 image := rfl

@[simp] theorem State.afterReset_status (s : State) (image : List Byte) (h : image.length < 3585) :
    (s.afterReset image h).status = State.reset.status := rfl

@[simp] theorem State.afterReset_faultCode (s : State) (image : List Byte) (h : image.length < 3585) :
    (s.afterReset image h).faultCode = State.reset.faultCode := rfl

@[simp] theorem State.afterReset_faultPc (s : State) (image : List Byte) (h : image.length < 3585) :
    (s.afterReset image h).faultPc = State.reset.faultPc := rfl

@[simp] theorem State.afterReset_errlog (s : State) (image : List Byte) (h : image.length < 3585) :
    (s.afterReset image h).errlog = State.reset.errlog := rfl

@[simp] theorem State.afterReset_errOut (s : State) (image : List Byte) (h : image.length < 3585) :
    (s.afterReset image h).errOut = State.reset.errOut := rfl

@[simp] theorem State.afterReset_selfJump (s : State) (image : List Byte) (h : image.length < 3585) :
    (s.afterReset image h).selfJump = State.reset.selfJump := rfl

@[simp] theorem State.afterReset_romLen (s : State) (image : List Byte) (h : image.length < 3585) :
    (s.afterReset image h).romLen = ⟨image.length, h⟩ := rfl

@[simp] theorem State.afterReset_cfg (s : State) (image : List Byte) (h : image.length < 3585) :
    (s.afterReset image h).cfg = s.cfg := rfl

@[simp] theorem State.afterReset_pending (s : State) (image : List Byte) (h : image.length < 3585) :
    (s.afterReset image h).pending = s.pending := rfl

@[simp] theorem State.afterReset_draws (s : State) (image : List Byte) (h : image.length < 3585) :
    (s.afterReset image h).draws = s.draws := rfl

/-- What memory holds after a reset: the font and the image, else zero (20_memory.md R51, R52). -/
theorem State.afterReset_readByte (s : State) (image : List Byte) (h : image.length < 3585) (a : Nat) :
    (s.afterReset image h).readByte a =
      if 0x200 ≤ a ∧ a < 0x200 + image.length then (image[a - 0x200]?).getD 0x00 else Memory.unlisted s.cfg a :=
  Memory.read_ofImage (c := s.cfg) (by omega)

/-! ### The invariant -/

/-- The invariant looks at neither registers, timers, keys and pixels nor the model's own fields: it carries over to a
state that agrees on the rest. -/
theorem Inv.congr {s t : State} (h : Inv s) (hi : t.i = s.i) (hpc : t.pc = s.pc) (hstk : t.stk = s.stk) (hsp : t.sp = s.sp)
    (hmem : t.mem = s.mem) (hstatus : t.status = s.status) (hcode : t.faultCode = s.faultCode)
    (hfpc : t.faultPc = s.faultPc) (hlog : t.errlog = s.errlog) (hout : t.errOut = s.errOut)
    (hself : t.selfJump = s.selfJump) (hlen : t.romLen = s.romLen) (hcfg : t.cfg = s.cfg) : Inv t := by
  obtain ⟨v, i, pc, dt, st, stk, sp, key, fb, mem, status, code, fpc, log, out, self, len, cfg, pending, draws⟩ := s
  obtain ⟨v', i', pc', dt', st', stk', sp', key', fb', mem', status', code', fpc', log', out', self', len', cfg',
    pending', draws'⟩ := t
  simp only at hi hpc hstk hsp hmem hstatus hcode hfpc hlog hout hself hlen hcfg
  subst hi hpc hstk hsp hmem hstatus hcode hfpc hlog hout hself hlen hcfg
  exact h

/-! ### Running several events -/

/-- Of any machine: running one step and then more. -/
theorem coreRun_succ (M : Host.Core) (k : Nat) {s t : M.State} (h : M.step s = .next t) : M.run (k + 1) s = M.run k t := by
  simp only [Host.Core.run, h]

/-- Of any machine: a run of at least one step that answers a state began with a step that did. -/
theorem coreRun_succ_inv (M : Host.Core) {k : Nat} {s t : M.State} (h : M.run (k + 1) s = .next t) :
    ∃ u, M.step s = .next u ∧ M.run k u = .next t := by
  simp only [Host.Core.run] at h
  split at h
  · next u hu => exact ⟨u, hu, h⟩
  · cases h
  · cases h

/-- Running one event and then more. -/
theorem run_succ {s t : State} (k : Nat) (h : step s = .next t) :
    Host.Core.run Sys2Proof.core (k + 1) s = Host.Core.run Sys2Proof.core k t :=
  coreRun_succ Sys2Proof.core k h

/-- A run of at least one event that answers a state began with an event that did. -/
theorem run_succ_inv {s t : State} {k : Nat} (h : Host.Core.run Sys2Proof.core (k + 1) s = .next t) :
    ∃ u, step s = .next u ∧ Host.Core.run Sys2Proof.core k u = .next t :=
  coreRun_succ_inv Sys2Proof.core h

/-- Running `j` events and then `k` more. -/
theorem run_add {s t : State} (j k : Nat) (h : Host.Core.run Sys2Proof.core j s = .next t) :
    Host.Core.run Sys2Proof.core (j + k) s = Host.Core.run Sys2Proof.core k t := by
  induction j generalizing s with
  | zero =>
    rw [Nat.zero_add]
    exact congrArg _ (Host.Outcome.next.inj h)
  | succ j ih =>
    obtain ⟨u, hu, hrest⟩ := run_succ_inv h
    rw [Nat.succ_add, run_succ _ hu]
    exact ih hrest

end Sys2Proof.Machine
end

