-- ==== Sys2Proof/Laws/PerInstr.lean ====
section
/-! SUPPORT. Facts about each instruction as a term: its encoding matches its own row of the opcode map
(30_encoding.md R75). -/

namespace Sys2Proof.Laws.Encoding

/-- The encoding of the instruction matches the pattern of its own row of the opcode map (30_encoding.md R75). -/
def Statement (i : Instr) : Prop := ∃ r ∈ opcodeMap, r.num = rowNumber i ∧ r.selects (encode i) = true

/-- A row that the map holds under the instruction's number, and that its encoding matches. -/
theorem of_row {i : Instr} (k : Nat) (p m : Word) (hr : ⟨k, p, m⟩ ∈ opcodeMap) (hk : k = rowNumber i)
    (hm : encode i &&& m = p) : Statement i :=
  ⟨_, hr, hk, by simp [OpRow.selects, hm]⟩

/-- Formats FA, FI and FD: the row's mask is 0xF000. -/
theorem maskOp_row {w p : Word} {op : BitVec 4} (h : fieldOp w = op) (hp : encodeFR op 0 0 0 = p) :
    w &&& 0xF000 = p := by
  rw [and_maskOp, h, hp]

/-- Format FR: the row's mask is 0xF00F. -/
theorem maskOpN_row {w p : Word} {op n : BitVec 4} (h : fieldOp w = op) (hn : fieldN w = n)
    (hp : encodeFR op 0 0 n = p) : w &&& 0xF00F = p := by
  rw [and_maskOpN, h, hn, hp]

/-- Format FX: the row's mask is 0xF0FF. -/
theorem maskOpKk_row {w p : Word} {op : BitVec 4} {kk : Byte} (h : fieldOp w = op) (hk : fieldKk w = kk)
    (hp : encodeFI op 0 kk = p) : w &&& 0xF0FF = p := by
  rw [and_maskOpKk, h, hk, hp]

theorem cls : Statement (.cls) :=
  of_row 1 0x00E0 0xFFFF (by decide) rfl rfl
theorem ret : Statement (.ret) :=
  of_row 2 0x00EE 0xFFFF (by decide) rfl rfl
theorem jp (nnn : BitVec 12) : Statement (.jp nnn) :=
  of_row 3 0x1000 0xF000 (by decide) rfl (maskOp_row (fieldOp_encodeFA _ _) rfl)
theorem call (nnn : BitVec 12) : Statement (.call nnn) :=
  of_row 4 0x2000 0xF000 (by decide) rfl (maskOp_row (fieldOp_encodeFA _ _) rfl)
theorem seVxByte (x : RegIdx) (kk : Byte) : Statement (.seVxByte x kk) :=
  of_row 5 0x3000 0xF000 (by decide) rfl (maskOp_row (fieldOp_encodeFI _ _ _) rfl)
theorem sneVxByte (x : RegIdx) (kk : Byte) : Statement (.sneVxByte x kk) :=
  of_row 6 0x4000 0xF000 (by decide) rfl (maskOp_row (fieldOp_encodeFI _ _ _) rfl)
theorem seVxVy (x y : RegIdx) : Statement (.seVxVy x y) :=
  of_row 7 0x5000 0xF00F (by decide) rfl (maskOpN_row (fieldOp_encodeFR _ _ _ _) (fieldN_encodeFR _ _ _ _) rfl)
theorem ldVxByte (x : RegIdx) (kk : Byte) : Statement (.ldVxByte x kk) :=
  of_row 8 0x6000 0xF000 (by decide) rfl (maskOp_row (fieldOp_encodeFI _ _ _) rfl)
theorem addVxByte (x : RegIdx) (kk : Byte) : Statement (.addVxByte x kk) :=
  of_row 9 0x7000 0xF000 (by decide) rfl (maskOp_row (fieldOp_encodeFI _ _ _) rfl)
theorem ldVxVy (x y : RegIdx) : Statement (.ldVxVy x y) :=
  of_row 10 0x8000 0xF00F (by decide) rfl (maskOpN_row (fieldOp_encodeFR _ _ _ _) (fieldN_encodeFR _ _ _ _) rfl)
theorem orVxVy (x y : RegIdx) : Statement (.orVxVy x y) :=
  of_row 11 0x8001 0xF00F (by decide) rfl (maskOpN_row (fieldOp_encodeFR _ _ _ _) (fieldN_encodeFR _ _ _ _) rfl)
theorem andVxVy (x y : RegIdx) : Statement (.andVxVy x y) :=
  of_row 12 0x8002 0xF00F (by decide) rfl (maskOpN_row (fieldOp_encodeFR _ _ _ _) (fieldN_encodeFR _ _ _ _) rfl)
theorem xorVxVy (x y : RegIdx) : Statement (.xorVxVy x y) :=
  of_row 13 0x8003 0xF00F (by decide) rfl (maskOpN_row (fieldOp_encodeFR _ _ _ _) (fieldN_encodeFR _ _ _ _) rfl)
theorem addVxVy (x y : RegIdx) : Statement (.addVxVy x y) :=
  of_row 14 0x8004 0xF00F (by decide) rfl (maskOpN_row (fieldOp_encodeFR _ _ _ _) (fieldN_encodeFR _ _ _ _) rfl)
theorem subVxVy (x y : RegIdx) : Statement (.subVxVy x y) :=
  of_row 15 0x8005 0xF00F (by decide) rfl (maskOpN_row (fieldOp_encodeFR _ _ _ _) (fieldN_encodeFR _ _ _ _) rfl)
theorem shrVx (x : RegIdx) : Statement (.shrVx x) :=
  of_row 16 0x8006 0xF00F (by decide) rfl (maskOpN_row (fieldOp_encodeFR _ _ _ _) (fieldN_encodeFR _ _ _ _) rfl)
theorem subnVxVy (x y : RegIdx) : Statement (.subnVxVy x y) :=
  of_row 17 0x8007 0xF00F (by decide) rfl (maskOpN_row (fieldOp_encodeFR _ _ _ _) (fieldN_encodeFR _ _ _ _) rfl)
theorem shlVx (x : RegIdx) : Statement (.shlVx x) :=
  of_row 18 0x800E 0xF00F (by decide) rfl (maskOpN_row (fieldOp_encodeFR _ _ _ _) (fieldN_encodeFR _ _ _ _) rfl)
theorem sneVxVy (x y : RegIdx) : Statement (.sneVxVy x y) :=
  of_row 19 0x9000 0xF00F (by decide) rfl (maskOpN_row (fieldOp_encodeFR _ _ _ _) (fieldN_encodeFR _ _ _ _) rfl)
theorem ldIAddr (nnn : BitVec 12) : Statement (.ldIAddr nnn) :=
  of_row 20 0xA000 0xF000 (by decide) rfl (maskOp_row (fieldOp_encodeFA _ _) rfl)
theorem jpV0Addr (nnn : BitVec 12) : Statement (.jpV0Addr nnn) :=
  of_row 21 0xB000 0xF000 (by decide) rfl (maskOp_row (fieldOp_encodeFA _ _) rfl)
theorem rndVxByte (x : RegIdx) (kk : Byte) : Statement (.rndVxByte x kk) :=
  of_row 22 0xC000 0xF000 (by decide) rfl (maskOp_row (fieldOp_encodeFI _ _ _) rfl)
theorem drw (x y : RegIdx) (n : BitVec 4) : Statement (.drw x y n) :=
  of_row 23 0xD000 0xF000 (by decide) rfl (maskOp_row (fieldOp_encodeFR _ _ _ _) rfl)
theorem skpVx (x : RegIdx) : Statement (.skpVx x) :=
  of_row 24 0xE09E 0xF0FF (by decide) rfl (maskOpKk_row (fieldOp_encodeFI _ _ _) (fieldKk_encodeFI _ _ _) rfl)
theorem sknpVx (x : RegIdx) : Statement (.sknpVx x) :=
  of_row 25 0xE0A1 0xF0FF (by decide) rfl (maskOpKk_row (fieldOp_encodeFI _ _ _) (fieldKk_encodeFI _ _ _) rfl)
theorem ldVxDt (x : RegIdx) : Statement (.ldVxDt x) :=
  of_row 26 0xF007 0xF0FF (by decide) rfl (maskOpKk_row (fieldOp_encodeFI _ _ _) (fieldKk_encodeFI _ _ _) rfl)
theorem ldVxK (x : RegIdx) : Statement (.ldVxK x) :=
  of_row 27 0xF00A 0xF0FF (by decide) rfl (maskOpKk_row (fieldOp_encodeFI _ _ _) (fieldKk_encodeFI _ _ _) rfl)
theorem ldDtVx (x : RegIdx) : Statement (.ldDtVx x) :=
  of_row 28 0xF015 0xF0FF (by decide) rfl (maskOpKk_row (fieldOp_encodeFI _ _ _) (fieldKk_encodeFI _ _ _) rfl)
theorem ldStVx (x : RegIdx) : Statement (.ldStVx x) :=
  of_row 29 0xF018 0xF0FF (by decide) rfl (maskOpKk_row (fieldOp_encodeFI _ _ _) (fieldKk_encodeFI _ _ _) rfl)
theorem addIVx (x : RegIdx) : Statement (.addIVx x) :=
  of_row 30 0xF01E 0xF0FF (by decide) rfl (maskOpKk_row (fieldOp_encodeFI _ _ _) (fieldKk_encodeFI _ _ _) rfl)
theorem ldFVx (x : RegIdx) : Statement (.ldFVx x) :=
  of_row 31 0xF029 0xF0FF (by decide) rfl (maskOpKk_row (fieldOp_encodeFI _ _ _) (fieldKk_encodeFI _ _ _) rfl)
theorem ldBVx (x : RegIdx) : Statement (.ldBVx x) :=
  of_row 32 0xF033 0xF0FF (by decide) rfl (maskOpKk_row (fieldOp_encodeFI _ _ _) (fieldKk_encodeFI _ _ _) rfl)
theorem ldMemVx (x : RegIdx) : Statement (.ldMemVx x) :=
  of_row 33 0xF055 0xF0FF (by decide) rfl (maskOpKk_row (fieldOp_encodeFI _ _ _) (fieldKk_encodeFI _ _ _) rfl)
theorem ldVxMem (x : RegIdx) : Statement (.ldVxMem x) :=
  of_row 34 0xF065 0xF0FF (by decide) rfl (maskOpKk_row (fieldOp_encodeFI _ _ _) (fieldKk_encodeFI _ _ _) rfl)

end Sys2Proof.Laws.Encoding
end

