-- ==== Sys2Proof/Laws/Step.lean ====
section
/-! SUPPORT. The cases of a `Step`, said once: at rest, a fetch or decode error, or an instruction
(40_engine_cycle.md R90 to R95). -/

namespace Sys2Proof.Machine

/-- The state of a `Step` that executes: the event taken and the outputs cleared. -/
theorem step_engaged {s : State} (hd : StepDue s) (he : Engaged s) : step s = fetchAndExec (stepStart s) := by
  rw [step_of_stepDue hd, cpuStep_engaged (s := s.takeEvent) he]; rfl

/-- The error of fetch or decode that a `Step` from this state raises (40_engine_cycle.md R91, R92; 30_encoding.md
R78). -/
def FetchError (s : State) (e : CoreError) : Prop :=
  (e = .misalignedFetch s.pc ∧ s.pc.getLsbD 0 = true)
    ∨ (e = .fetchOutOfBounds s.pc ∧ s.pc.getLsbD 0 = false ∧ s.pc.toNat + 2 > 0x200 + s.romLen.val)
    ∨ (e = .unknownOpcode s.fetch s.pc ∧ CanFetch s ∧ decode s.fetch = none)

/-- Fetch and execute: an error of fetch or decode, or the meaning of the instruction at PC. -/
theorem fetchAndExec_cases {s t : State} (h : fetchAndExec s = .next t) :
    (∃ e, FetchError s e ∧ t = s.raise e) ∨ (CanFetch s ∧ ∃ i, decode s.fetch = some i ∧ exec i s = .next t) := by
  unfold fetchAndExec State.checkFetch at h
  by_cases hodd : s.pc.getLsbD 0 = true
  · rw [if_pos hodd] at h
    exact .inl ⟨_, .inl ⟨rfl, hodd⟩, (Host.Outcome.next.inj h).symm⟩
  · have heven : s.pc.getLsbD 0 = false := by simpa using hodd
    rw [if_neg hodd] at h
    by_cases hpast : s.pc.toNat + 2 > s.loadEnd
    · rw [if_pos hpast] at h
      exact .inl ⟨_, .inr (.inl ⟨rfl, heven, hpast⟩), (Host.Outcome.next.inj h).symm⟩
    · rw [if_neg hpast] at h
      have hc : CanFetch s := ⟨heven, by unfold State.loadEnd at hpast; omega⟩
      cases hd : decode s.fetch with
      | none =>
        have h' := (execWord_none hd).symm.trans h
        exact .inl ⟨_, .inr (.inr ⟨rfl, hc, hd⟩), (Host.Outcome.next.inj h').symm⟩
      | some i => exact .inr ⟨hc, i, rfl, (execWord_some hd).symm.trans h⟩

/-- A `Step` that answers a state: at rest it cleared the outputs, and otherwise it fetched and executed. -/
theorem step_cases {s t : State} (hd : StepDue s) (h : step s = .next t) :
    (¬ Engaged s ∧ t = stepStart s)
      ∨ (Engaged s ∧ ∃ e, FetchError (stepStart s) e ∧ t = (stepStart s).raise e)
      ∨ (Engaged s ∧ CanFetch (stepStart s)
        ∧ ∃ i, decode (stepStart s).fetch = some i ∧ exec i (stepStart s) = .next t) := by
  by_cases he : Engaged s
  · rw [step_engaged hd he] at h
    rcases fetchAndExec_cases h with h | ⟨hc, h⟩
    · exact .inr (.inl ⟨he, h⟩)
    · exact .inr (.inr ⟨he, hc, h⟩)
  · rw [step_of_stepDue hd, cpuStep_resting (s := s.takeEvent) he] at h
    exact .inl ⟨he, (Host.Outcome.next.inj h).symm⟩

end Sys2Proof.Machine
end

