-- ==== Sys2Proof/Tests/Slice0.lean ====
section
/-! SUPPORT. Small tests, each naming where its expected result comes from: words from spec/opcode_table.json, vectors of
95_test_vectors.md. After them, for every statement with hypotheses, states and operands that meet them. -/

namespace Sys2Proof.Tests

open Sys2Proof.Machine

/-! ### WellFormed and memory: each check refuses an ill-formed term -/

theorem test_fontBase_past_program_start_refused : ({ Config.default with fontBase := 0x1B1 } : Config).wf = false := by
  decide
theorem test_fontBase_highest_accepted : ({ Config.default with fontBase := 0x1B0 } : Config).wf = true := by decide
theorem test_image_3585_refused : imageWf (List.replicate 3585 0x00) = false := by
  rw [imageWf, List.length_replicate]; rfl
theorem test_image_3584_accepted : imageWf (List.replicate 3584 0x00) = true := by
  rw [imageWf, List.length_replicate]; rfl
theorem test_memory_unsorted_refused : Memory.wf Config.default [(0x301, 1), (0x300, 1)] = false := by decide
theorem test_memory_repeat_refused : Memory.wf Config.default [(0x300, 1), (0x300, 2)] = false := by decide
theorem test_memory_default_entry_refused : Memory.wf Config.default [(0x300, 0)] = false := by decide
theorem test_memory_font_entry_refused : Memory.wf Config.default [(0x000, 0xF0)] = false := by decide
theorem test_memory_high_address_refused : Memory.wf Config.default [(0x1000, 1)] = false := by decide
theorem test_memory_sorted_accepted : Memory.wf Config.default [(0x300, 1), (0xFFF, 1)] = true := by decide

/-! ### Decode: a word of every row, written out from the row's encoding in spec/opcode_table.json -/

theorem test_decode_cls : decodeTableWord 16 0x00E0 = some (.cls) := by decide
theorem test_decode_ret : decodeTableWord 16 0x00EE = some (.ret) := by decide
theorem test_decode_jp : decodeTableWord 16 0b0001001000000100 = some (.jp 0x204) := by decide
theorem test_decode_call : decodeTableWord 16 0b0010001100000000 = some (.call 0x300) := by decide
theorem test_decode_seVxByte : decodeTableWord 16 0b0011001100010000 = some (.seVxByte 0x3 0x10) := by decide
theorem test_decode_sneVxByte : decodeTableWord 16 0b0100001100010001 = some (.sneVxByte 0x3 0x11) := by decide
theorem test_decode_seVxVy : decodeTableWord 16 0b0101000100100000 = some (.seVxVy 0x1 0x2) := by decide
theorem test_decode_ldVxByte : decodeTableWord 16 0b0110111110101010 = some (.ldVxByte 0xF 0xAA) := by decide
theorem test_decode_addVxByte : decodeTableWord 16 0b0111000100000011 = some (.addVxByte 0x1 0x03) := by decide
theorem test_decode_ldVxVy : decodeTableWord 16 0b1000000100100000 = some (.ldVxVy 0x1 0x2) := by decide
theorem test_decode_orVxVy : decodeTableWord 16 0b1000000100100001 = some (.orVxVy 0x1 0x2) := by decide
theorem test_decode_andVxVy : decodeTableWord 16 0b1000000100100010 = some (.andVxVy 0x1 0x2) := by decide
theorem test_decode_xorVxVy : decodeTableWord 16 0b1000000100100011 = some (.xorVxVy 0x1 0x2) := by decide
theorem test_decode_addVxVy : decodeTableWord 16 0b1000000100100100 = some (.addVxVy 0x1 0x2) := by decide
theorem test_decode_subVxVy : decodeTableWord 16 0b1000000100100101 = some (.subVxVy 0x1 0x2) := by decide
theorem test_decode_shrVx : decodeTableWord 16 0b1000000100100110 = some (.shrVx 0x1) := by decide
theorem test_decode_subnVxVy : decodeTableWord 16 0b1000000100100111 = some (.subnVxVy 0x1 0x2) := by decide
theorem test_decode_shlVx : decodeTableWord 16 0b1000000100101110 = some (.shlVx 0x1) := by decide
theorem test_decode_sneVxVy : decodeTableWord 16 0b1001000100100000 = some (.sneVxVy 0x1 0x2) := by decide
theorem test_decode_ldIAddr : decodeTableWord 16 0b1010001011110000 = some (.ldIAddr 0x2F0) := by decide
theorem test_decode_jpV0Addr : decodeTableWord 16 0b1011001100000000 = some (.jpV0Addr 0x300) := by decide
theorem test_decode_rndVxByte : decodeTableWord 16 0b1100000100001111 = some (.rndVxByte 0x1 0x0F) := by decide
theorem test_decode_drw : decodeTableWord 16 0b1101000100100101 = some (.drw 0x1 0x2 0x5) := by decide
theorem test_decode_skpVx : decodeTableWord 16 0b1110010110011110 = some (.skpVx 0x5) := by decide
theorem test_decode_sknpVx : decodeTableWord 16 0b1110010110100001 = some (.sknpVx 0x5) := by decide
theorem test_decode_ldVxDt : decodeTableWord 16 0b1111001100000111 = some (.ldVxDt 0x3) := by decide
theorem test_decode_ldVxK : decodeTableWord 16 0b1111001100001010 = some (.ldVxK 0x3) := by decide
theorem test_decode_ldDtVx : decodeTableWord 16 0b1111001100010101 = some (.ldDtVx 0x3) := by decide
theorem test_decode_ldStVx : decodeTableWord 16 0b1111001100011000 = some (.ldStVx 0x3) := by decide
theorem test_decode_addIVx : decodeTableWord 16 0b1111001100011110 = some (.addIVx 0x3) := by decide
theorem test_decode_ldFVx : decodeTableWord 16 0b1111001100101001 = some (.ldFVx 0x3) := by decide
theorem test_decode_ldBVx : decodeTableWord 16 0b1111001100110011 = some (.ldBVx 0x3) := by decide
theorem test_decode_ldMemVx : decodeTableWord 16 0b1111001101010101 = some (.ldMemVx 0x3) := by decide
theorem test_decode_ldVxMem : decodeTableWord 16 0b1111001101100101 = some (.ldVxMem 0x3) := by decide
theorem test_decode_bytes_big_endian : decodeBytes [0x12, 0x04, 0xAA] = .instr (.jp 0x204) [0xAA] := by decide
theorem test_decode_bytes_truncated : decodeBytes [0x12] = .truncated := by decide
theorem test_decode_unrecognized : decodeBytes [0x81, 0x28] = .unrecognized 0x8128 [] := by decide

/-! ### One step of each instruction, from 95_test_vectors.md -/

/-- The word is placed at 0x200 as the whole image, one `Step` runs, and `p` holds of the state it leaves. -/
def after (s : State) (w : Nat) (p : State → Bool) : Bool :=
  match step (s.withFetchWord 16 w) with
  | .next t => p t
  | .fault _ => false
  | .refused _ => false

/-- The reset state with two registers set. -/
def regs (x : RegIdx) (a : Byte) (y : RegIdx) (b : Byte) : State := (State.reset.setV x a).setV y b

/-- The reset state with I and one register set. -/
def indexed (i : Word) (x : RegIdx) (a : Byte) : State := (State.reset.setI i).setV x a

/-- CF-1 -/
theorem test_jp : after (State.reset) 0x1204 (fun t => t.pc == 0x204 && t.status == .running && !t.selfJump) = true := by decide
/-- CF-2 -/
theorem test_jp_self : after (State.reset) 0x1200 (fun t => t.pc == 0x200 && t.status == .idle && t.selfJump) = true := by decide
/-- CF-4 -/
theorem test_call : after (State.reset) 0x2300 (fun t => t.pc == 0x300 && t.sp == 1 && t.stk[0] == 0x202) = true := by decide
/-- CF-5 -/
theorem test_call_full : after ({ State.reset with sp := 16 }) 0x2300 (fun t => t.pc == 0x202 && t.sp == 16 && t.errOutCode == 2 && t.errlog == 0x0004) = true := by decide
/-- CF-7 -/
theorem test_seVxByte : after (regs 3 0x10 0 0) 0x3310 (fun t => t.pc == 0x204) = true := by decide
/-- CF-8 -/
theorem test_seVxByte_no_skip : after (regs 3 0x10 0 0) 0x3311 (fun t => t.pc == 0x202) = true := by decide
/-- CF-11 -/
theorem test_sneVxByte : after (regs 3 0x10 0 0) 0x4311 (fun t => t.pc == 0x204) = true := by decide
/-- CF-13 -/
theorem test_seVxVy : after (regs 1 7 2 7) 0x5120 (fun t => t.pc == 0x204) = true := by decide
/-- CF-15 -/
theorem test_seVxVy_unrecognized : after (regs 1 7 2 7) 0x5121 (fun t => t.pc == 0x202 && t.errOutCode == 1 && t.errlog == 0x0002) = true := by decide
/-- CF-16 -/
theorem test_sneVxVy : after (regs 1 7 2 8) 0x9120 (fun t => t.pc == 0x204) = true := by decide
/-- CF-19 -/
theorem test_jpV0Addr : after (regs 0 0xFF 1 0) 0xBFFF (fun t => t.pc == 0x10FE && t.status == .running) = true := by decide
/-- CF-21 -/
theorem test_ret : after ({ State.reset with sp := 1, stk := State.reset.stk.set 0 0x0202 }) 0x00EE (fun t => t.pc == 0x202 && t.sp == 0 && t.errOut == none) = true := by decide
/-- CF-22 -/
theorem test_ret_underflow : after (State.reset) 0x00EE (fun t => t.pc == 0 && t.sp == 0 && t.errOutCode == 3 && t.errlog == 0x0008 && t.status == .running) = true := by decide
/-- A-2 -/
theorem test_ldVxByte : after (State.reset) 0x6FAA (fun t => t.readV vf == 0xAA) = true := by decide
/-- A-4 with VF as in A-3 -/
theorem test_addVxByte_no_flag : after (regs 1 0xFF 0xF 0x55) 0x7101 (fun t => t.readV 1 == 0 && t.readV vf == 0x55) = true := by decide
/-- A-6 -/
theorem test_ldVxVy : after (regs 1 0 2 0x3C) 0x8120 (fun t => t.readV 1 == 0x3C) = true := by decide
/-- A-7 -/
theorem test_orVxVy : after (regs 1 0x0F 2 0xF0) 0x8121 (fun t => t.readV 1 == 0xFF) = true := by decide
/-- A-8 -/
theorem test_andVxVy : after (regs 1 0x3C 2 0x0F) 0x8122 (fun t => t.readV 1 == 0x0C) = true := by decide
/-- A-9 -/
theorem test_xorVxVy : after (regs 1 0x3C 2 0x0F) 0x8123 (fun t => t.readV 1 == 0x33) = true := by decide
/-- A-13 -/
theorem test_addVxVy_flag_wins : after (regs 1 0x90 0xF 0x80) 0x8F14 (fun t => t.readV vf == 1) = true := by decide
/-- A-14 -/
theorem test_addVxVy_old_flag_operand : after (regs 1 0x01 0xF 0xFF) 0x81F4 (fun t => t.readV 1 == 0 && t.readV vf == 1) = true := by decide
/-- A-16 -/
theorem test_subVxVy : after (regs 1 0x05 2 0x07) 0x8125 (fun t => t.readV 1 == 0xFE && t.readV vf == 0) = true := by decide
/-- A-18 -/
theorem test_subVxVy_equal : after (regs 1 0x42 2 0x42) 0x8125 (fun t => t.readV 1 == 0 && t.readV vf == 1) = true := by decide
/-- A-22 -/
theorem test_shrVx_ignores_y : after (regs 1 0x04 0xF 0xFF) 0x81F6 (fun t => t.readV 1 == 0x02 && t.readV vf == 0) = true := by decide
/-- A-23 -/
theorem test_shrVx_flag_wins : after (regs 0xF 0x03 0 0) 0x8F06 (fun t => t.readV vf == 1) = true := by decide
/-- A-24 -/
theorem test_subnVxVy : after (regs 1 0x07 2 0x05) 0x8127 (fun t => t.readV 1 == 0xFE && t.readV vf == 0) = true := by decide
/-- A-27 -/
theorem test_shlVx : after (regs 1 0x81 2 0x55) 0x812E (fun t => t.readV 1 == 0x02 && t.readV vf == 1) = true := by decide
/-- A-33 -/
theorem test_unknown_permissive : after (State.reset) 0x8128 (fun t => t.pc == 0x202 && t.errOutCode == 1 && t.status == .running) = true := by decide
/-- A-34 -/
theorem test_unknown_strict : after ({ State.reset with cfg := { Config.default with strictDecode := true } }) 0x8128 (fun t => t.pc == 0x200 && t.status == .faulted && t.faultCode == 1 && t.faultPc == 0x200 && t.errlog == 0x0002) = true := by decide
/-- M-1 -/
theorem test_ldIAddr : after (State.reset) 0xA2F0 (fun t => t.i == 0x2F0) = true := by decide
/-- M-2 -/
theorem test_addIVx_wraps : after (indexed 0xFFE 1 3) 0xF11E (fun t => t.i == 0x001 && t.readV vf == 1) = true := by decide
/-- M-4 -/
theorem test_addIVx_old_flag : after (indexed 0x100 0xF 5) 0xFF1E (fun t => t.i == 0x105 && t.readV vf == 0) = true := by decide
/-- M-6 -/
theorem test_ldFVx_low_nibble : after (indexed 0 2 0x1A) 0xF229 (fun t => t.i == 0x032) = true := by decide
/-- M-11 -/
theorem test_ldBVx : after (indexed 0xFFD 3 0x7B) 0xF333 (fun t => t.readByte 0xFFD == 1 && t.readByte 0xFFE == 2 && t.readByte 0xFFF == 3) = true := by decide
/-- M-13 -/
theorem test_ldBVx_font : after (indexed 0x04E 3 0x7B) 0xF333 (fun t => t.readByte 0x04E == 0x80 && t.readByte 0x050 == 0 && t.errOutCode == 5 && t.errlog == 0x0020) = true := by decide
/-- M-17 -/
theorem test_ldMemVx : after (indexed 0xFF0 0xF 0xEE) 0xFF55 (fun t => t.readByte 0xFFE == 0 && t.readByte 0xFFF == 0xEE && t.i == 0xFF0) = true := by decide
/-- M-18 -/
theorem test_ldMemVx_bounds : after (indexed 0xFF1 0 0x11) 0xFF55 (fun t => t.readByte 0xFF1 == 0 && t.errOutCode == 4 && t.pc == 0x202) = true := by decide
/-- M-19 -/
theorem test_ldVxMem : after ((State.reset.setI 0x300).writeBytes 0x300 [2, 5, 4]) 0xF265 (fun t => t.readV 0 == 2 && t.readV 1 == 5 && t.readV 2 == 4 && t.i == 0x300) = true := by decide
/-- M-22 -/
theorem test_ldVxMem_bounds : after (indexed 0xFF1 0 0x11) 0xFF65 (fun t => t.readV 0 == 0x11 && t.errOutCode == 4) = true := by decide
/-- D-11 -/
theorem test_cls : after (State.reset.setFb (flipPixel clearFb 5 5)) 0x00E0 (fun t => !(pixelAt t.fb 5 5)) = true := by decide
/-- D-3 -/
theorem test_drw_wraps : after (regs 0 0x3F 1 0x1F) 0xD015 (fun t => pixelAt t.fb 63 31 && pixelAt t.fb 0 31 && pixelAt t.fb 0 3 && pixelAt t.fb 2 3 && !(pixelAt t.fb 0 0) && t.readV vf == 0) = true := by decide +kernel
/-- D-9 -/
theorem test_drw_collides : after (((State.reset.setI 0x300).writeBytes 0x300 [0xC0]).setFb (flipPixel clearFb 0 0)) 0xD011 (fun t => !(pixelAt t.fb 0 0) && pixelAt t.fb 1 0 && t.readV vf == 1) = true := by decide +kernel
/-- K-1 -/
theorem test_skpVx : after ((regs 5 0xA 0 0).keyLatch 0x0400) 0xE59E (fun t => t.pc == 0x204) = true := by decide
/-- K-3 -/
theorem test_skpVx_range : after ((regs 5 0x10 0 0).keyLatch 0x0001) 0xE59E (fun t => t.pc == 0x202 && t.errOutCode == 6 && t.errlog == 0x0040) = true := by decide
/-- K-4 -/
theorem test_sknpVx : after (regs 5 0xA 0 0) 0xE5A1 (fun t => t.pc == 0x204) = true := by decide
/-- K-6 -/
theorem test_sknpVx_range : after (regs 5 0xFF 0 0) 0xE5A1 (fun t => t.pc == 0x202 && t.errOutCode == 6) = true := by decide
/-- K-7 -/
theorem test_ldVxDt : after (State.reset.setDt 0x2A) 0xF307 (fun t => t.readV 3 == 0x2A) = true := by decide
/-- K-8 -/
theorem test_ldVxK_waits : after (State.reset) 0xF20A (fun t => t.pc == 0x200 && t.status == .awaitingKey) = true := by decide
/-- K-12 -/
theorem test_ldDtVx : after (regs 4 0x3C 0 0) 0xF415 (fun t => t.dt == 0x3C) = true := by decide
/-- K-14 -/
theorem test_ldStVx : after (regs 4 0x05 0 0) 0xF418 (fun t => t.st == 0x05 && t.soundActive) = true := by decide
/-- K-9: with one key pressed every draw picks it. -/
theorem test_ldVxK_one_key : ∀ d < 5, ((State.reset.keyLatch 0x0080).takeKey d 2).readV 2 = 7 := by decide
/-- K-10, K-11: of two pressed keys the draw picks either. -/
theorem test_ldVxK_two_keys : ((State.reset.keyLatch 0x0208).takeKey 0 2).readV 2 = 3
    ∧ ((State.reset.keyLatch 0x0208).takeKey 1 2).readV 2 = 9 := by decide
/-- A-30, A-31: the draw is masked. -/
theorem test_rndVxByte : (State.reset.setRandom 0xA7 1 0x0F).readV 1 = 0x07
    ∧ (State.reset.setRandom 0xFF 1 0x00).readV 1 = 0x00 := by decide
/-- E-2: the empty image. -/
theorem test_empty_image_faults : (match step State.reset with
    | .next t => t.status == .faulted && t.faultCode == 7 && t.faultPc == 0x200 && t.errlog == 0x0080
    | .fault _ => false
    | .refused _ => false) = true := by decide
/-- E-1: an image of odd length, whose last byte is no word. -/
theorem test_odd_image_faults : (match Host.Core.run Sys2Proof.core 3
      ({ State.reset with pending := [.reset [0x60, 0x01, 0x00], .step, .step] } : State) with
    | .next t => State.readV t 0 == 1 && State.errOutCode t == 7 && State.pc t == 0x202
    | .fault _ => false
    | .refused _ => false) = true := by decide
/-- K-16: both timers stop at zero. -/
theorem test_timer_saturates : ((State.reset.setSt 1).timerTick.timerTick).st = 0
    ∧ ((State.reset.setSt 1).timerTick.timerTick).dt = 0 := by decide
/-- E-7: the timers fall after all the steps of a tick. -/
theorem test_tick_order : (match Host.Core.run Sys2Proof.core 5
      ({ (State.reset.setV 0 3) with
        mem := Memory.ofImage Config.default 0x200 [0xF0, 0x15, 0xF0, 0x07]
        romLen := 4
        pending := tickEvents 0x0000 2 true true } : State) with
    | .next t => State.dt t == 2 && State.readV t 0 == 3
    | .fault _ => false
    | .refused _ => false) = true := by decide

/-! ### Witnesses: states and operands that meet the hypotheses of each statement, clause by clause, at the edges -/

/-- The reset state with a word placed at 0x200 as the whole image. -/
def placed (w : Nat) : State := State.reset.withFetchWord 16 w

theorem witness_EncodeOfDecodeIsTheWordUpToIgnoredBits :
    (decode 0x6005 = some (.ldVxByte 0x0 0x05) ∧ encode (.ldVxByte 0x0 0x05) = 0x6005)
      ∧ decode 0x8AB6 = some (.shrVx 0xA) ∧ encode (.shrVx 0xA) = 0x8AB6 &&& 0xFF0F := by decide

theorem witness_DecodingFollowsTheOpcodeMap :
    (∃ r ∈ opcodeMap, (0x8AB6 : Word) &&& r.mask = r.pat) ∧ decode 0x8AB6 = some (.shrVx 0xA) ∧ decode 0xFFFF = none := by
  decide

theorem witness_UnrecognizedWordsAreTheListedFamilies :
    decode 0x0000 = none ∧ decode 0x5121 = none ∧ decode 0x9121 = none ∧ decode 0x8128 = none ∧ decode 0xE19F = none
      ∧ decode 0xF108 = none ∧ decode 0x00EE ≠ none := by decide

theorem witness_StepRunsTheDecodedInstruction : StepDue (placed 0x6005) ∧ Engaged (placed 0x6005) ∧ CanFetch (placed 0x6005)
    ∧ decodeBytes [(placed 0x6005).readByte 0x200, (placed 0x6005).readByte 0x201] = .instr (.ldVxByte 0x0 0x05) [] :=
  ⟨rfl, .inl rfl, ⟨by decide, by decide⟩, by decide⟩

theorem witness_OddPcFaultsAtFetch :
    StepDue { placed 0x6005 with pc := 0x201 } ∧ Engaged { placed 0x6005 with pc := 0x201 }
      ∧ (0x201 : Word).toNat % 2 = 1 := ⟨rfl, .inl rfl, rfl⟩

/-- `PC + 2` one past the bound, and equal to it, and a PC below 0x200. -/
theorem witness_FetchPastTheImageFaults :
    (StepDue { placed 0x6005 with romLen := 1 } ∧ Engaged { placed 0x6005 with romLen := 1 }
      ∧ (0x200 : Word).toNat % 2 = 0 ∧ (0x200 : Word).toNat + 2 > 0x200 + (1 : Fin 3585).val)
      ∧ (0x200 : Word).toNat + 2 ≤ 0x200 + (placed 0x6005).romLen.val
      ∧ (0x000 : Word).toNat + 2 ≤ 0x200 + (placed 0x6005).romLen.val :=
  ⟨⟨rfl, .inl rfl, rfl, by decide⟩, by decide, by decide⟩

theorem witness_UnrecognizedWordIsSkippedOrHalts :
    (StepDue (placed 0x8128) ∧ Engaged (placed 0x8128) ∧ CanFetch (placed 0x8128)
      ∧ decodeBytes [(placed 0x8128).readByte 0x200, (placed 0x8128).readByte 0x201] = .unrecognized 0x8128 [])
      ∧ (placed 0x8128).cfg.strictDecode = false
      ∧ ({ placed 0x8128 with cfg := { Config.default with strictDecode := true } } : State).cfg.strictDecode = true :=
  ⟨⟨rfl, .inl rfl, ⟨by decide, by decide⟩, by decide⟩, rfl, rfl⟩

theorem witness_RestingStepOnlyClearsOutputs :
    (StepDue { State.reset with status := .idle } ∧ ({ State.reset with status := .idle } : State).status = .idle)
      ∧ StepDue { State.reset with status := .faulted } := ⟨⟨rfl, rfl⟩, rfl⟩

theorem witness_AwaitingKeyStepsAsRunning : StepDue State.reset ∧ StepDue (placed 0xF20A) := ⟨rfl, rfl⟩

/-- A step with no error, one with an error, and one that executes a self-jump. -/
theorem witness_OutputsReportTheStep : (StepDue (placed 0x6005) ∧ after State.reset 0x6005 (fun t => t.errOut == none) = true)
    ∧ after State.reset 0x8128 (fun t => t.errOut == some (.unknownOpcode 0x8128 0x200)) = true
    ∧ after State.reset 0x1200 (fun t => t.selfJump) = true := ⟨⟨rfl, by decide⟩, by decide, by decide⟩

/-- At reset, and from an odd PC and a PC at the top of memory, where the word is placed at 0x200. -/
theorem witness_PlacedWordRunsNext : Memory.wf State.reset.cfg State.reset.mem = true
    ∧ decodeTableWord 16 0x6005 = some (.ldVxByte 0x0 0x05)
    ∧ ({ State.reset with pc := 0x0FFE } : State).fetchPc = 0x0FFE
    ∧ ({ State.reset with pc := 0x1000 } : State).fetchPc = 0x200
    ∧ ({ State.reset with pc := 0x0301 } : State).fetchPc = 0x200 := by decide

/-- `exec i s` answers a state of which `p` holds. -/
def ends (i : Instr) (s : State) (p : State → Bool) : Bool :=
  match exec i s with
  | .next t => p t
  | .fault _ => false
  | .refused _ => false

theorem ends_iff {i : Instr} {s : State} {p : State → Bool} : ends i s p = true ↔ ∃ t, exec i s = .next t ∧ p t = true := by
  unfold ends
  cases exec i s with
  | next t => simp
  | fault r => cases r
  | refused r => simp

theorem witness_StatusAfterAnInstruction : ends (.ldVxK 2) State.reset (fun t => t.status == .awaitingKey) = true
    ∧ ends (.jp 0x200) State.reset (fun t => t.status == .idle) = true
    ∧ ends (.jp 0x202) State.reset (fun t => t.status == .running) = true := by decide

theorem witness_PcAdvancesByTwoUnlessItSkipsWaitsOrJumps : ends .cls State.reset (fun t => t.pc == 0x202) = true
    ∧ ends (.sknpVx 0) State.reset (fun t => t.pc == 0x204) = true
    ∧ ends (.ldVxK 2) State.reset (fun t => t.pc == 0x200) = true := by decide

/-- VF is kept by `ADD Vx, byte` and V1 by the flag of `ADD I, Vx`. -/
theorem witness_RegistersChangeOnlyAsDestinations : writesReg (.addVxByte 0 1) vf = false ∧ writesReg (.addIVx 1) 1 = false
    ∧ ends (.addVxByte 0 1) State.reset (fun _ => true) = true ∧ ends (.addIVx 1) State.reset (fun _ => true) = true := by
  decide

/-- For each element an instruction that does change it. -/
theorem witness_EachElementHasItsWriters : ends (.ldIAddr 0x2F0) State.reset (fun t => t.i != 0) = true
    ∧ ends (.ldDtVx 1) (regs 1 5 2 0) (fun t => t.dt != 0) = true
    ∧ ends (.ldStVx 1) (regs 1 5 2 0) (fun t => t.st != 0) = true
    ∧ ends (.call 0x300) State.reset (fun t => t.sp != 0 && t.stk != State.reset.stk) = true
    ∧ ends (.jp 0x200) State.reset (fun t => t.selfJump) = true
    ∧ ends (.rndVxByte 1 0) State.reset (fun t => t.draws != 0) = true := by decide

theorem witness_EachElementHasItsWriters_display :
    ends .cls (State.reset.setFb (flipPixel clearFb 5 5)) (fun t => !(pixelAt t.fb 5 5)) = true
      ∧ pixelAt (flipPixel clearFb 5 5) 5 5 = true := by decide

theorem witness_MemoryChangesOnlyByStoresOutsideTheFont : Memory.wf Config.default State.reset.mem = true
    ∧ ends (.ldBVx 3) (indexed 0xFFD 3 0x7B) (fun t => t.readByte 0xFFF == 3) = true
    ∧ State.readByte (indexed 0xFFD 3 0x7B) 0xFFF = 0
    ∧ ends (.ldMemVx 0) (indexed 0x050 0 0xAB) (fun t => t.readByte 0x050 == 0xAB) = true := by decide

theorem witness_ErrorsComeFromTheirInstructions : ends .cls State.reset (fun t => t.errOut == none) = true
    ∧ ends .ret State.reset (fun t => t.errOut == some (.stackUnderflow 0x200)) = true := by decide

theorem witness_RejectedInstructionHasNoOtherEffect :
    ends (.ldVxMem 0xF) (indexed 0xFF1 0 0) (fun t => t.errOut == some (.boundsViolation 0x1000)) = true
      ∧ (indexed 0xFF1 0 0).errOut = none := by decide

/-- Two states that differ in the error log, the fault record and the stack entries above SP. -/
theorem witness_ErrorRecordAndStaleEntriesAreNeverRead : SameVisible (placed 0x00EE)
    { placed 0x00EE with errlog := 0x0002, faultPc := 0x300, stk := Vector.replicate 16 0x0ABC }
      ∧ after State.reset 0x00EE (fun _ => true) = true :=
  ⟨⟨rfl, rfl, rfl, rfl, rfl, rfl, rfl, rfl, rfl, rfl, rfl, rfl, rfl, rfl, rfl, fun k hk => absurd hk (Nat.not_lt_zero k.val)⟩,
    by decide⟩

/-- A `Reset` of 3585 bytes is refused from both of two such states. -/
theorem witness_ErrorRecordAndStaleEntriesAreNeverRead_refused :
    step { State.reset with pending := [.reset (List.replicate 3585 0)] } = .refused (.imageTooLong 3585) := by
  rw [show step { State.reset with pending := [.reset (List.replicate 3585 0)] }
    = doReset (List.replicate 3585 0) State.reset from rfl, doReset, dif_neg (by rw [List.length_replicate]; decide),
    List.length_replicate]

/-- An odd target, an even one past the image, an even one inside it, and the self-jump. -/
theorem witness_JumpWritesItsTargetAndASelfJumpIdles :
    ((0x203 : BitVec 12).toNat ≠ State.reset.pc.toNat ∧ (0x203 : BitVec 12).toNat % 2 = 1)
      ∧ ((0x202 : BitVec 12).toNat ≠ State.reset.pc.toNat ∧ (0x202 : BitVec 12).toNat % 2 = 0
        ∧ (0x202 : BitVec 12).toNat + 2 > 0x200 + State.reset.romLen.val)
      ∧ (0x1FE : BitVec 12).toNat + 2 ≤ 0x200 + State.reset.romLen.val
      ∧ (0x200 : BitVec 12).toNat = State.reset.pc.toNat := by decide

theorem witness_CallPushesTheReturnAddressOrIsRejected : ({ State.reset with sp := 15 } : State).sp.val < 16
    ∧ ({ State.reset with sp := 16 } : State).sp.val = 16 := by decide

theorem witness_ReturnPopsOrSignalsUnderflow : ({ State.reset with sp := 1 } : State).sp.val = (0 : Fin 16).val + 1
    ∧ ({ State.reset with sp := 16 } : State).sp.val = (15 : Fin 16).val + 1 ∧ State.reset.sp.val = 0 := by decide

theorem witness_CallThenReturnComesBack : State.reset.sp.val < 16 ∧ ({ State.reset with sp := 15 } : State).sp.val < 16 := by
  decide

theorem witness_SkipsBetweenRegisters : (fieldOp 0x5121 = 0x5 ∧ fieldN 0x5121 ≠ 0) ∧ fieldOp 0x912F = 0x9
    ∧ fieldN 0x912F ≠ 0 := by decide

/-- The highest target: 0xFFF and V0 0xFF; an odd one; an even one past the image. -/
theorem witness_JumpWithOffsetAddsV0Exactly :
    ends (.jpV0Addr 0xFFF) (regs 0 0xFF 1 0) (fun t => t.pc.toNat == 0x10FE && t.pc.toNat + 2 > 0x200 + 0) = true
      ∧ ends (.jpV0Addr 0x201) State.reset (fun t => t.pc.toNat % 2 == 1) = true := by decide

/-- A destination other than VF, for the sum, the difference and the shifted value. -/
theorem witness_AddWritesSumThenCarry : (0x1 : RegIdx) ≠ 0xF
    ∧ ends (.addVxVy 1 2) (regs 1 0xFF 2 0x01) (fun t => t.readV 1 == 0 && t.readV 0xF == 1) = true := by decide
theorem witness_SubtractWritesDifferenceThenNoBorrow : (0xE : RegIdx) ≠ 0xF
    ∧ ends (.subVxVy 0xE 2) (regs 0xE 0 2 1) (fun t => t.readV 0xE == 0xFF && t.readV 0xF == 0) = true := by decide
theorem witness_ShiftWritesResultThenBitShiftedOut : (0x0 : RegIdx) ≠ 0xF
    ∧ ends (.shlVx 0) (regs 0 0x80 1 0) (fun t => t.readV 0 == 0 && t.readV 0xF == 1) = true := by decide

theorem witness_RandomMasksItsDraw : ends (.rndVxByte 1 0) State.reset (fun t => t.draws == 1) = true := by decide

theorem witness_LoadFontWritesTheGlyphAddress : Config.default.wf = true
    ∧ ({ Config.default with fontBase := 0x1B0 } : Config).wf = true := by decide

/-- Past 0xFFF; the last font byte hit by the first and by the last byte stored; the last legal I. -/
theorem witness_BcdStoresThreeDigitsOrIsRejected : (indexed 0x0FFE 3 0x7B).i.toNat > 0x0FFD
    ∧ ((indexed 0x04F 3 0x7B).i.toNat ≤ 0x0FFD ∧ (indexed 0x04F 3 0x7B).effAddr 0 ≤ 0x04F
      ∧ 0x04F < (indexed 0x04F 3 0x7B).effAddr 3 ∧ inFont Config.default 0x04F = true)
    ∧ (Memory.wf Config.default (indexed 0x0FFD 3 0x7B).mem = true ∧ (indexed 0x0FFD 3 0x7B).i.toNat ≤ 0x0FFD
      ∧ ∀ k < 3, inFont Config.default ((indexed 0x0FFD 3 0x7B).effAddr k) = false)
    ∧ ∀ k < 3, inFont Config.default ((indexed 0x050 3 0x7B).effAddr k) = false := by decide

/-- A store of 16 bytes past 0xFFF, one that reaches a font at 0x100 with its last byte, and the last legal one. -/
theorem witness_StoreRangeWritesV0ToVxOrIsRejected : (indexed 0x0FF1 0 0).effAddr 15 > 0x0FFF
    ∧ ((indexed 0x0F1 0 0).effAddr 15 ≤ 0x0FFF ∧ (indexed 0x0F1 0 0).effAddr 0 ≤ 0x100
      ∧ 0x100 ≤ (indexed 0x0F1 0 0).effAddr 15 ∧ inFont { Config.default with fontBase := 0x100 } 0x100 = true
      ∧ ∀ k < 15, inFont { Config.default with fontBase := 0x100 } ((indexed 0x0F1 0 0).effAddr k) = false)
    ∧ ((indexed 0x0FF0 0 0).effAddr 15 ≤ 0x0FFF ∧ Memory.wf Config.default (indexed 0x0FF0 0 0).mem = true
      ∧ ∀ k < 16, inFont Config.default ((indexed 0x0FF0 0 0).effAddr k) = false) := by decide

theorem witness_LoadRangeReadsV0ToVxOrIsRejected : (indexed 0x0FF1 0 0).effAddr 15 > 0x0FFF
    ∧ (indexed 0x0FF0 0 0).effAddr 15 ≤ 0x0FFF := by decide

/-- The sprite of one row 0xC0 at the origin over a buffer with pixel (0, 0) set, and over a clear buffer. -/
def oneRow (f : FrameBuffer) : State := ((State.reset.setI 0x300).writeBytes 0x300 [0xC0]).setFb f

/-- Past 0xFFF, no row at all, the last legal sprite; a pixel toggled, one not toggled; a collision and none. -/
theorem witness_DrawTogglesItsPixelsAndReportsCollision :
    (0 < (0x3 : BitVec 4).toNat ∧ (indexed 0xFFE 0 0).effAddr 2 > 0x0FFF) ∧ (0x0 : BitVec 4).toNat = 0
      ∧ (indexed 0xFFD 0 0).effAddr 2 ≤ 0x0FFF := by decide

theorem witness_DrawTogglesItsPixelsAndReportsCollision_collides (f : FrameBuffer) :
    togglesPixel (oneRow f) 0 0 1 1 0 ∧ ¬ togglesPixel (oneRow f) 0 0 1 2 0 := by
  constructor
  · exact ⟨0, by decide, 1, by decide, by simp [spriteBit, oneRow, State.readByte]; decide, by decide, by decide⟩
  · rintro ⟨r, hr, c, hc, hb, hx, -⟩
    have hr0 : r = 0 := by omega
    have hc2 : c = 2 := by simp at hx; omega
    subst hr0 hc2
    revert hb
    simp [spriteBit, oneRow, State.readByte]
    decide

theorem witness_DrawTogglesItsPixelsAndReportsCollision_flag :
    pixelAt (flipPixel clearFb 1 0) 1 0 = true ∧ ∀ x y, pixelAt clearFb x y = false := by
  constructor
  · decide
  · intro x y
    simp [pixelAt, clearFb]

/-- Glyph 0 at the origin of a clear buffer: the first draw sets pixels and keeps V0 and V1 (D-1). -/
theorem witness_DrawingTwiceRestoresTheBuffer : (State.reset.effAddr 4 ≤ 0x0FFF)
    ∧ ends (.drw 0 1 5) State.reset (fun t => t.readV 0 == State.reset.readV 0 && t.readV 1 == State.reset.readV 1
      && pixelAt t.fb 0 0 && !(pixelAt State.reset.fb 0 0)) = true := by decide +kernel

/-- The second draw of the same sprite sets no pixel. -/
theorem witness_DrawingTwiceRestoresTheBuffer_erases : (∀ px py, pixelAt clearFb px py = false → pixelAt clearFb px py = false)
    ∧ ends (.drw 0 1 1) (oneRow (flipPixel (flipPixel clearFb 0 0) 1 0)) (fun t => !(pixelAt t.fb 0 0) && !(pixelAt t.fb 1 0)) =
      true := ⟨fun _ _ h => h, by decide +kernel⟩

theorem witness_KeySkipsTestTheLatchedKey : ((regs 5 0x10 0 0).readV 5).toNat > 0xF
    ∧ ((regs 5 0x0F 0 0).readV 5).toNat = (15 : Fin 16).val ∧ ((regs 5 0x00 0 0).readV 5).toNat = (0 : Fin 16).val := by
  decide

theorem witness_KeyWaitReportsAPressedKey : (∀ k : Fin 16, State.reset.key[k] = false)
    ∧ (State.reset.keyLatch 0x8000).key[(15 : Fin 16)] = true := by decide

theorem witness_TimerTickLowersBothTimers :
    ({ State.reset with pending := [.timerTick], status := .faulted } : State).pending = .timerTick :: []
      ∧ ({ State.reset with pending := [.timerTick], status := .faulted } : State).status = .faulted
      ∧ ({ State.reset with pending := [.timerTick], status := .idle } : State).status ≠ .faulted := by decide

theorem witness_KeyLatchSetsEveryKey :
    ({ State.reset with pending := [.keyLatch 0x8001, .step] } : State).pending = .keyLatch 0x8001 :: [.step]
      ∧ (placed 0x6005).nextEvent = .step ∧ after State.reset 0x6005 (fun _ => true) = true := by decide

theorem witness_FrameOutDeliversTheBufferUnchanged :
    ({ State.reset with pending := [.frameOut] } : State).pending = .frameOut :: [] ∧ State.reset.nextEvent ≠ .frameOut := by
  decide

/-- A tick with both due, one step, and nothing behind it. -/
theorem witness_TickLatchesKeysThenStepsThenTimers :
    ({ State.reset with pending := tickEvents 0x0001 1 true true } : State).pending = tickEvents 0x0001 1 true true ++ []
      ∧ tickEvents 0x0001 1 true true = [.keyLatch 0x0001, .step, .timerTick, .frameOut]
      ∧ (match Host.Core.run Sys2Proof.core (1 + 1 + 1)
          ({ State.reset with pending := tickEvents 0x0001 1 true true } : State) with
        | .next t => State.nextEvent t == .frameOut
        | .fault _ => false
        | .refused _ => false) = true := by decide

theorem witness_TimerTicksCountDownToZero : State.reset.status ≠ .faulted
    ∧ ({ State.reset with pending := List.replicate 60 .timerTick } : State).pending = List.replicate 60 .timerTick ++ [] :=
  ⟨by decide, by simp⟩

/-- The longest image that fits. -/
theorem witness_ResetEventInitialisesEverything :
    ({ State.reset with pending := [.reset (List.replicate 3584 0xAA)] } : State).pending
        = .reset (List.replicate 3584 0xAA) :: []
      ∧ (List.replicate 3584 (0xAA : Byte)).length ≤ 3584 ∧ State.reset.cfg.wf = true := by
  rw [List.length_replicate]
  exact ⟨rfl, le_refl _, by decide⟩

theorem witness_OnlyAnOversizeResetIsRefused : (List.replicate 3585 (0xAA : Byte)).length > 3584
    ∧ ∀ image, State.reset.nextEvent = .reset image → image.length ≤ 3584 := by
  rw [List.length_replicate]
  exact ⟨by decide, fun image h => by cases h⟩

/-- The engine waiting for a key on the `F20A` placed at 0x200. -/
def waiting : State := { placed 0xF20A with status := .awaitingKey, v := Vector.replicate 16 0x11 }

theorem witness_EveryStepKeepsTheInvariant : Inv waiting ∧ ∃ t, step waiting = .next t := by
  refine ⟨⟨by decide, by decide, ?_, by decide, by decide, ?_, by decide, ?_, ?_, by decide, ?_⟩, _, rfl⟩
  · intro k
    revert k
    decide
  · exact fun k hk => absurd hk (Nat.not_lt_zero k.val)
  · exact ⟨by decide, by decide, by decide, by decide⟩
  · exact ⟨fun _ => ⟨⟨by decide, by decide⟩, 2, by decide⟩, fun h => by cases h⟩
  · exact fun e he => by cases he

theorem witness_OnlyResetChangesTheLoadBound :
    after State.reset 0x6005 (fun _ => true) = true ∧ ∀ image, (placed 0x6005).nextEvent ≠ .reset image :=
  ⟨by decide, fun _ h => by cases h⟩

theorem witness_OnlyResetClearsTheErrorLog : after { State.reset with errlog := 0x0102 } 0x6005 (fun _ => true) = true
    ∧ (State.withFetchWord { State.reset with errlog := 0x0102 } 16 0x6005).nextEvent = .step
    ∧ (0x0102 : BitVec 16).getLsbD 8 = true := by decide

theorem witness_OnlyResetLeavesIdleAndFaulted :
    ({ State.reset with status := .idle } : State).status = .idle
      ∧ (step { State.reset with status := .idle } = .next { State.reset with status := .idle })
      ∧ (step { State.reset with status := .faulted } = .next { State.reset with status := .faulted })
      ∧ ∀ image, ({ State.reset with status := .idle } : State).nextEvent ≠ .reset image :=
  ⟨rfl, rfl, rfl, fun _ h => by cases h⟩

end Sys2Proof.Tests
end

section
/-! PROOFS. The statements about instruction totality and rejection (00_scope.md R12; 40_engine_cycle.md R97;
60_exceptions.md R202). -/

namespace Sys2Proof.Machine

/-- Settles O14. Nine instructions branch: on a target (`JP`), on a pressed key (`FX0A`), on room on the stack (`CALL`), or
on the check of a transfer or of a key index. Either branch is a next state; all others are one by definition. -/
theorem everyInstructionAnswersANextState : Obligations.EveryInstructionAnswersANextState := by
  intro i s
  cases i
  case jp | ldVxK | call | drw | ldVxMem | ldBVx | ldMemVx | skpVx | sknpVx =>
    simp only [exec, execJp, execLdVxK, execCall, execDrw, execLdVxMem, execLdBVx, execLdMemVx, execSkpVx, execSknpVx]
    split
    · exact ⟨_, rfl⟩
    · exact ⟨_, rfl⟩
  all_goals exact ⟨_, rfl⟩

/-- An instruction that completes reports no error but the STACK_UNDERFLOW of `RET` (41_control_flow.md R117). -/
theorem completed_errOut {i : Instr} {s t : State} {e : CoreError} (hc : Completed i s t) (hs : s.errOut = none)
    (ht : t.errOut = some e) : e = .stackUnderflow s.pc := by
  rcases completed_errors hc with ⟨_, hsame⟩ | ⟨_, _, hunder, _⟩
  · rw [hsame, hs] at ht
    cases ht
  · exact Option.some.inj (ht.symm.trans hunder)

/-- Settles O21: an error other than the signalled STACK_UNDERFLOW excludes completion, so the instruction was rejected
with a non-fatal error, which is the one reported. -/
theorem rejectedInstructionHasNoOtherEffect : Obligations.RejectedInstructionHasNoOtherEffect := by
  intro i s t e hs hexec ht hne
  rcases exec_cases hexec with ⟨e', hnonFatal, _, _, rfl⟩ | hc
  · obtain rfl : e' = e := Option.some.inj ((State.raise_reports s e').1.symm.trans ht)
    exact State.raise_rejected hnonFatal
  · exact absurd (completed_errOut hc hs ht) (hne s.pc)

end Sys2Proof.Machine
end

section
/-! PROOFS. The statement about what no instruction reads: the error record and the stack entries at or above SP
(10_state.md R30, R38, R39, R41). A state that differs from `s` only there is `s.withUnread u`; every operation but
`Push`, `Pop` and `raise` commutes with that replacement by definition, and those three keep the entries below SP equal. -/

namespace Sys2Proof.Machine

/-- What no instruction reads: the error record, and the stack for its entries at or above SP. -/
structure Unread where
  stk : Vector Word 16
  faultCode : BitVec 4
  faultPc : Word
  errlog : BitVec 16
  errOut : Option CoreError

/-- The state with its error record and its stack replaced. -/
def State.withUnread (s : State) (u : Unread) : State :=
  { s with stk := u.stk, faultCode := u.faultCode, faultPc := u.faultPc, errlog := u.errlog, errOut := u.errOut }

/-- The stack in `u` holds the entries of `s` below SP. -/
def AgreesBelowSp (s : State) (u : Unread) : Prop := ∀ k : Fin 16, k.val < s.sp.val → s.stk[k] = u.stk[k]

theorem sameVisible_withUnread {s : State} {u : Unread} (h : AgreesBelowSp s u) : SameVisible s (s.withUnread u) :=
  ⟨rfl, rfl, rfl, rfl, rfl, rfl, rfl, rfl, rfl, rfl, rfl, rfl, rfl, rfl, rfl, h⟩

/-- A state that differs at most in what is unread is `s` with that replaced. -/
theorem exists_withUnread {s s' : State} (h : SameVisible s s') : ∃ u, s' = s.withUnread u ∧ AgreesBelowSp s u := by
  obtain ⟨v, i, pc, dt, st, stk, sp, key, fb, mem, status, code, fpc, log, out, self, len, cfg, pending, draws⟩ := s
  obtain ⟨v', i', pc', dt', st', stk', sp', key', fb', mem', status', code', fpc', log', out', self', len', cfg',
    pending', draws'⟩ := s'
  simp only [SameVisible] at h
  obtain ⟨rfl, rfl, rfl, rfl, rfl, rfl, rfl, rfl, rfl, rfl, rfl, rfl, rfl, rfl, rfl, hstk⟩ := h
  exact ⟨⟨stk', code', fpc', log', out'⟩, rfl, hstk⟩

/-- Two outcomes of the same kind: next states that differ at most in what is unread, or the same refusal. -/
def SameOutcome (o o' : Host.Outcome State Fault Refusal) : Prop :=
  (∀ t, o = .next t → ∃ t', o' = .next t' ∧ SameVisible t t') ∧ ∀ r, o = .refused r → o' = .refused r

theorem SameOutcome.next {t t' : State} (h : SameVisible t t') : SameOutcome (.next t) (.next t') :=
  ⟨fun _ ht => ⟨t', rfl, Host.Outcome.next.inj ht ▸ h⟩, nofun⟩

theorem SameOutcome.refused (r : Refusal) : SameOutcome (.refused r) (.refused r) :=
  ⟨nofun, fun _ hr => hr⟩

variable {s : State} {u : Unread}

theorem raise_withUnread (e : CoreError) (h : AgreesBelowSp s u) :
    SameVisible (s.raise e) ((s.withUnread u).raise e) := by
  cases hf : e.isFatal s.cfg with
  | true =>
    rw [State.raise_fatal hf, State.raise_fatal (s := s.withUnread u) hf]
    exact sameVisible_withUnread (u := ⟨u.stk, e.code, s.pc, u.errlog ||| e.logBit, some e⟩) h
  | false =>
    rw [State.raise_nonFatal hf, State.raise_nonFatal (s := s.withUnread u) hf]
    exact sameVisible_withUnread (u := { u with errlog := u.errlog ||| e.logBit, errOut := some e }) h

/-- `CALL` writes the same entry at SP in both stacks, or is rejected in both (10_state.md R33). -/
theorem execCall_withUnread (nnn : BitVec 12) (h : AgreesBelowSp s u) :
    SameOutcome (execCall nnn s) (execCall nnn (s.withUnread u)) := by
  by_cases hsp : s.sp.val < 16
  · simp only [execCall, State.push_room hsp, State.push_room (s := s.withUnread u) hsp]
    refine .next (sameVisible_withUnread (u := { u with stk := u.stk.set s.sp.val (s.pc + 2) hsp }) ?_)
    intro k hk
    have hk' : k.val < s.sp.val + 1 := hk
    by_cases hkt : k.val = s.sp.val
    · simp [← hkt]
    · simpa [Vector.getElem_set_ne, Ne.symm hkt] using h k (by omega)
  · have hfull : s.sp.val = 16 := by have := s.sp.isLt; omega
    simp only [execCall, State.push_full hfull, State.push_full (s := s.withUnread u) hfull]
    exact .next (raise_withUnread _ h)

/-- `RET` reads only the entry below SP (10_state.md R34). -/
theorem execRet_withUnread (h : AgreesBelowSp s u) : SameOutcome (execRet s) (execRet (s.withUnread u)) := by
  by_cases h0 : s.sp.val = 0
  · obtain ⟨hpop, htop⟩ := State.pop_empty h0
    obtain ⟨hpop', htop'⟩ := State.pop_empty (s := s.withUnread u) h0
    simp only [execRet, hpop, htop, hpop', htop']
    exact .next (sameVisible_withUnread
      (u := { u with errlog := u.errlog ||| (CoreError.stackUnderflow s.pc).logBit, errOut := some (.stackUnderflow s.pc) }) h)
  · obtain ⟨hpop, htop⟩ := State.pop_held h0
    obtain ⟨hpop', htop'⟩ := State.pop_held (s := s.withUnread u) h0
    have hlt : s.sp.val - 1 < 16 := by have := s.sp.isLt; omega
    have heq : (s.withUnread u).topOfStack = s.topOfStack := by
      rw [htop, htop']
      exact (h ⟨s.sp.val - 1, hlt⟩ (Nat.sub_lt (Nat.pos_of_ne_zero h0) Nat.one_pos)).symm
    simp only [execRet, heq, hpop, hpop']
    exact .next (sameVisible_withUnread (u := u) fun k hk => h k (Nat.lt_of_lt_of_le hk (Nat.sub_le _ _)))

/-- Where both states pass or fail the same check, the error is raised in both or both complete. -/
theorem checked_withUnread {check : Option CoreError} {t t' : State} (h : AgreesBelowSp s u) (ht : SameVisible t t') :
    SameOutcome (match check with | some e => .next (s.raise e) | none => .next t)
      (match check with | some e => .next ((s.withUnread u).raise e) | none => .next t') := by
  cases check with
  | some e => exact .next (raise_withUnread e h)
  | none => exact .next ht

/-- Where both states take the same branch. -/
theorem branch_withUnread {c : Prop} [Decidable c] {t t' v v' : State} (ht : SameVisible t t') (hv : SameVisible v v') :
    SameOutcome (if c then .next t else .next v) (if c then .next t' else .next v') := by
  split
  · exact .next ht
  · exact .next hv

/-- Every instruction takes states that differ at most in what is unread to such states. -/
theorem exec_withUnread (i : Instr) (h : AgreesBelowSp s u) : SameOutcome (exec i s) (exec i (s.withUnread u)) := by
  cases i
  case call nnn => exact execCall_withUnread nnn h
  case ret => exact execRet_withUnread h
  case jp | ldVxK => exact branch_withUnread (sameVisible_withUnread (u := u) h) (sameVisible_withUnread (u := u) h)
  case drw | ldBVx | ldMemVx | ldVxMem | skpVx | sknpVx =>
    exact checked_withUnread h (sameVisible_withUnread (u := u) h)
  all_goals exact .next (sameVisible_withUnread (u := u) h)

theorem execWord_withUnread (w : Word) (h : AgreesBelowSp s u) :
    SameOutcome (execWord w s) (execWord w (s.withUnread u)) := by
  cases hd : decode w with
  | some i =>
    rw [execWord_some hd, execWord_some hd]
    exact exec_withUnread i h
  | none =>
    rw [execWord_none hd, execWord_none hd]
    exact .next (raise_withUnread _ h)

theorem fetchAndExec_withUnread (h : AgreesBelowSp s u) :
    SameOutcome (fetchAndExec s) (fetchAndExec (s.withUnread u)) := by
  have hcheck : (s.withUnread u).checkFetch = s.checkFetch := rfl
  unfold fetchAndExec
  rw [hcheck]
  cases s.checkFetch with
  | some e => exact .next (raise_withUnread e h)
  | none => exact execWord_withUnread s.fetch h

theorem cpuStep_withUnread (h : AgreesBelowSp s u) : SameOutcome (cpuStep s) (cpuStep (s.withUnread u)) := by
  by_cases he : Engaged s
  · rw [cpuStep_engaged he, cpuStep_engaged (s := s.withUnread u) he]
    exact fetchAndExec_withUnread (s := s.clearOutputs) (u := { u with errOut := none }) h
  · rw [cpuStep_resting he, cpuStep_resting (s := s.withUnread u) he]
    exact .next (sameVisible_withUnread (u := { u with errOut := none }) h)

theorem timerTick_withUnread (s : State) (u : Unread) : (s.withUnread u).timerTick = s.timerTick.withUnread u := by
  by_cases hf : s.status = .faulted
  · rw [State.timerTick_faulted hf, State.timerTick_faulted (s := s.withUnread u) hf]
  · rw [State.timerTick_counting hf, State.timerTick_counting (s := s.withUnread u) hf]
    rfl

theorem deliver_withUnread (e : Event) (h : AgreesBelowSp s u) :
    SameOutcome (deliver e s) (deliver e (s.withUnread u)) := by
  cases e with
  | reset image =>
    by_cases hl : image.length < 3585
    · simp only [deliver, doReset_fits _ hl]
      exact .next (sameVisible_withUnread (s := s.afterReset image hl)
        (u := ⟨State.reset.stk, State.reset.faultCode, State.reset.faultPc, State.reset.errlog, State.reset.errOut⟩)
        fun _ _ => rfl)
    · simp only [deliver, doReset_oversize _ hl]
      exact .refused _
  | keyLatch keys => exact .next (sameVisible_withUnread (s := s.keyLatch keys) h)
  | step => exact cpuStep_withUnread h
  | timerTick =>
    simp only [deliver, timerTick_withUnread]
    exact .next (sameVisible_withUnread fun k hk => by simpa using h k (by simpa using hk))
  | frameOut => exact .next (sameVisible_withUnread h)

/-- Settles O22: the other state is the first with what is unread replaced, and the event, taken from both, is the same. -/
theorem errorRecordAndStaleEntriesAreNeverRead : Obligations.ErrorRecordAndStaleEntriesAreNeverRead := by
  intro s s' hsame
  obtain ⟨u, rfl, h⟩ := exists_withUnread hsame
  exact deliver_withUnread (s := s.takeEvent) s.nextEvent h

end Sys2Proof.Machine
end

section
/-! SUPPORT. What an instruction can do to PC, to the general registers, to I, to the stack and to the rest, said once
over all instructions. -/

namespace Sys2Proof.Machine

/-! ### The parts of an instruction -/

/-- A completed `CALL` wrote the return address at SP, raised SP and jumped (41_control_flow.md R111). -/
theorem completed_call {nnn : BitVec 12} {s t : State} (hc : Completed (.call nnn) s t) :
    ∃ hs : s.sp.val < 16, t = State.goto { s with
      stk := s.stk.set s.sp.val (s.pc + 2) hs, sp := ⟨s.sp.val + 1, Nat.succ_lt_succ hs⟩ } (zextNnn nnn) := by
  obtain ⟨u, hu, rfl⟩ := hc
  obtain ⟨hs, rfl⟩ := State.push_some hu
  exact ⟨hs, rfl⟩

/-- A `RET` signalled STACK_UNDERFLOW or lowered SP, and went to the entry read (41_control_flow.md R117). -/
theorem completed_ret {s t : State} (hc : Completed .ret s t) :
    t = (s.signal (.stackUnderflow s.pc)).goto s.topOfStack
      ∨ ∃ sp : Fin 17, sp.val < s.sp.val ∧ t = State.goto { s with sp := sp } s.topOfStack := by
  simp only [Completed] at hc
  by_cases h0 : s.sp.val = 0
  · exact .inl (by rw [hc, (State.pop_empty h0).1])
  · exact .inr ⟨_, Nat.sub_lt (Nat.pos_of_ne_zero h0) Nat.one_pos, by rw [hc, (State.pop_held h0).1]⟩

/-- The six instructions that may skip (41_control_flow.md R112 to R115, 45_keypad_timers.md R180, R181). -/
def IsSkip (i : Instr) : Prop :=
  (∃ x kk, i = .seVxByte x kk) ∨ (∃ x kk, i = .sneVxByte x kk) ∨ (∃ x y, i = .seVxVy x y)
    ∨ (∃ x y, i = .sneVxVy x y) ∨ (∃ x, i = .skpVx x) ∨ ∃ x, i = .sknpVx x

theorem State.skipIf_pc_cases (s : State) (c : Bool) : (s.skipIf c).pc = s.pc + 2 ∨ (s.skipIf c).pc = s.pc + 4 := by
  cases c
  · exact .inl rfl
  · exact .inr rfl

/-! ### A completed instruction -/

/-- PC after a completed instruction (10_state.md R26, 40_engine_cycle.md R96). -/
theorem completed_pc {i : Instr} {s t : State} (hc : Completed i s t) :
    (∃ nnn, i = .jp nnn ∧ t.pc = zextNnn nnn) ∨ (∃ nnn, i = .call nnn ∧ t.pc = zextNnn nnn)
      ∨ (∃ nnn, i = .jpV0Addr nnn ∧ t.pc = s.offsetTarget nnn) ∨ (i = .ret ∧ t.pc = s.topOfStack)
      ∨ t.pc = s.pc + 2 ∨ (t.pc = s.pc + 4 ∧ IsSkip i)
      ∨ (t.pc = s.pc ∧ (∃ x, i = .ldVxK x) ∧ t.status = .awaitingKey) := by
  cases i <;> simp only [Completed] at hc
  case seVxByte | sneVxByte | seVxVy | sneVxVy | skpVx | sknpVx =>
    have hskip : t.pc = s.pc + 2 ∨ t.pc = s.pc + 4 := hc ▸ s.skipIf_pc_cases _
    rcases hskip with h | h <;> simp [h, IsSkip]
  case jp => split at hc <;> simp [hc]
  case call =>
    obtain ⟨u, _, rfl⟩ := hc
    simp
  case ldVxK => split at hc <;> simp [hc, State.takeKey]
  case drw | ldBVx | ldMemVx | ldVxMem => simp [hc.2]
  all_goals simp [hc, State.setRandom]

/-- A general register that a completed instruction writes neither as data nor as the flag stays (10_state.md R23). -/
theorem completed_readV {i : Instr} {s t : State} {k : RegIdx} (hc : Completed i s t) (hk : writesReg i k = false) :
    t.readV k = s.readV k := by
  cases i <;> simp only [Completed, writesReg] at hc hk
  case jp => split at hc <;> simp [hc]
  case call =>
    obtain ⟨_, rfl⟩ := completed_call hc
    rfl
  case ret => rcases completed_ret hc with rfl | ⟨sp, _, rfl⟩ <;> rfl
  case ldVxK => split at hc <;> simp_all [State.takeKey]
  case drw | ldBVx | ldMemVx | ldVxMem => simp_all
  all_goals simp_all [State.setRandom]

/-- I after a completed instruction (10_state.md R24). -/
theorem completed_index {i : Instr} {s t : State} (hc : Completed i s t) :
    t.i = s.i ∨ (∃ nnn, i = .ldIAddr nnn ∧ t.i = zextNnn nnn)
      ∨ (∃ x, i = .addIVx x ∧ t.i = indexResult (s.indexSum (s.readV x)))
      ∨ ∃ x, i = .ldFVx x ∧ t.i = glyphAddr s.cfg (s.readV x) := by
  cases i <;> simp only [Completed] at hc
  case jp => split at hc <;> simp [hc]
  case call =>
    obtain ⟨_, rfl⟩ := completed_call hc
    exact .inl rfl
  case ret => rcases completed_ret hc with rfl | ⟨sp, _, rfl⟩ <;> simp
  case ldVxK => split at hc <;> simp [hc, State.takeKey]
  case drw | ldBVx | ldMemVx | ldVxMem => simp [hc.2]
  all_goals simp [hc, State.setRandom]

/-- The stack after a completed instruction: only `CALL` writes an entry, and only `RET` lowers SP (10_state.md R32). -/
theorem completed_stack {i : Instr} {s t : State} (hc : Completed i s t) :
    (t.sp = s.sp ∧ t.stk = s.stk)
      ∨ ((∃ nnn, i = .call nnn) ∧ ∃ h : s.sp.val < 16, t.sp.val = s.sp.val + 1 ∧ t.stk = s.stk.set s.sp.val (s.pc + 2) h)
      ∨ (i = .ret ∧ t.sp.val ≤ s.sp.val ∧ t.stk = s.stk) := by
  cases i <;> simp only [Completed] at hc
  case jp => split at hc <;> simp [hc]
  case call nnn =>
    obtain ⟨hs, rfl⟩ := completed_call hc
    exact .inr (.inl ⟨⟨nnn, rfl⟩, hs, rfl, rfl⟩)
  case ret =>
    rcases completed_ret hc with rfl | ⟨sp, hsp, rfl⟩
    · exact .inl ⟨rfl, rfl⟩
    · exact .inr (.inr ⟨rfl, hsp.le, rfl⟩)
  case ldVxK => split at hc <;> simp [hc, State.takeKey]
  case drw | ldBVx | ldMemVx | ldVxMem => simp [hc.2]
  all_goals simp [hc, State.setRandom]

/-- The timers, the pixels and the draw counter each have their own writers (10_state.md R28, R29, R36). -/
theorem completed_writers {i : Instr} {s t : State} (hc : Completed i s t) :
    (t.dt = s.dt ∨ ∃ x, i = .ldDtVx x) ∧ (t.st = s.st ∨ ∃ x, i = .ldStVx x)
      ∧ (t.fb = s.fb ∨ i = .cls ∨ ∃ x y n, i = .drw x y n)
      ∧ (t.draws = s.draws ∨ (∃ x kk, i = .rndVxByte x kk) ∨ ∃ x, i = .ldVxK x) := by
  cases i <;> simp only [Completed] at hc
  case jp => split at hc <;> simp [hc]
  case call =>
    obtain ⟨_, rfl⟩ := completed_call hc
    simp
  case ret => rcases completed_ret hc with rfl | ⟨sp, _, rfl⟩ <;> simp
  case ldVxK => split at hc <;> simp [hc, State.takeKey]
  case drw | ldBVx | ldMemVx | ldVxMem => simp [hc.2]
  all_goals simp [hc, State.setRandom]

end Sys2Proof.Machine
end

section
/-! PROOFS. The statements about what an instruction changes (10_state.md R21 to R36, 40_engine_cycle.md R96). -/

namespace Sys2Proof.Machine

/-- Settles O16: a rejected instruction advances PC by 2, and a completed one does what `completed_pc` lists. -/
theorem pcAdvancesByTwoUnlessItSkipsWaitsOrJumps : Obligations.PcAdvancesByTwoUnlessItSkipsWaitsOrJumps := by
  intro i s t hexec
  rcases exec_cases hexec with ⟨e, hnonFatal, _, _, rfl⟩ | hc
  · obtain ⟨_, _, hpc, _⟩ := State.raise_rejected hnonFatal
    exact .inr (.inr (.inr (.inr (.inl hpc))))
  · rcases completed_pc hc with ⟨nnn, hi, _⟩ | ⟨nnn, hi, _⟩ | ⟨nnn, hi, _⟩ | ⟨hi, _⟩ | hrest
    · exact .inl ⟨nnn, hi⟩
    · exact .inr (.inl ⟨nnn, hi⟩)
    · exact .inr (.inr (.inl ⟨nnn, hi⟩))
    · exact .inr (.inr (.inr (.inl hi)))
    · exact .inr (.inr (.inr (.inr hrest)))

/-- Settles O17: a rejected instruction writes no register, and a completed one only those `writesReg` lists. -/
theorem registersChangeOnlyAsDestinations : Obligations.RegistersChangeOnlyAsDestinations := by
  intro i s t hexec k hk
  rcases exec_cases hexec with ⟨e, _, _, _, rfl⟩ | hc
  · exact State.raise_readV s e k
  · exact completed_readV hc hk

/-- `selfjump_out` after a completed instruction: only the self-jump writes it (41_control_flow.md R110). -/
theorem completed_selfJump {i : Instr} {s t : State} (hc : Completed i s t) :
    t.selfJump = s.selfJump ∨ ∃ nnn, i = .jp nnn := by
  rcases completed_status hc with ⟨_, h⟩ | ⟨_, _, _, rfl⟩ | ⟨_, nnn, hi, _⟩
  · exact .inl h
  · exact .inl rfl
  · exact .inr ⟨nnn, hi⟩

/-- Settles O18: a rejected instruction changes none of these elements, and each part of a completed one has its lemma. -/
theorem eachElementHasItsWriters : Obligations.EachElementHasItsWriters := by
  intro i s t hexec
  rcases exec_cases hexec with ⟨e, hnonFatal, _, _, rfl⟩ | hc
  · simp [State.raise_nonFatal hnonFatal]
  · obtain ⟨hcfg, hlen, hkey, hpending, hcode, hfpc⟩ := completed_keeps hc
    obtain ⟨hdt, hst, hfb, hdraws⟩ := completed_writers hc
    refine ⟨fun h => ?_, hdt.resolve_left, hst.resolve_left, fun h => ?_, hfb.resolve_left,
      (completed_selfJump hc).resolve_left, hdraws.resolve_left, hkey, hlen, hcfg, hpending, hcode, hfpc⟩
    · rcases completed_index hc with hsame | ⟨nnn, hi, _⟩ | ⟨x, hi, _⟩ | ⟨x, hi, _⟩
      · exact absurd hsame h
      · exact .inl ⟨nnn, hi⟩
      · exact .inr (.inl ⟨x, hi⟩)
      · exact .inr (.inr ⟨x, hi⟩)
    · rcases completed_stack hc with ⟨hsp, hstk⟩ | ⟨hi, _⟩ | ⟨hi, _⟩
      · exact absurd h (by simp [hsp, hstk])
      · exact .inr hi
      · exact .inl hi

end Sys2Proof.Machine
end

section
/-! PROOFS. The statements about the status and about what every event keeps (10_state.md R37, R38; 40_engine_cycle.md
R90, R99; 60_exceptions.md R205). -/

namespace Sys2Proof.Machine

theorem not_engaged_of_resting {s : State} (h : s.status = .idle ∨ s.status = .faulted) : ¬ Engaged s := by
  rcases h with h | h <;> simp [Engaged, h]

/-- Settles O10: an engine at rest does not execute, so that its `Step` only clears the two outputs. -/
theorem restingStepOnlyClearsOutputs : Obligations.RestingStepOnlyClearsOutputs := by
  intro s hdue hrest
  exact (step_of_stepDue hdue).trans (cpuStep_resting (s := s.takeEvent) (not_engaged_of_resting hrest))

/-- The status with which an instruction starts is not read: each outcome sets the status anew. -/
theorem exec_ignores_status (i : Instr) (s : State) (st : Status) : exec i { s with status := st } = exec i s := by
  cases i
  case ret =>
    simp only [exec, execRet, State.pop]
    split <;> rfl
  case call nnn =>
    by_cases hs : s.sp.val < 16
    · simp only [exec, execCall, State.push, dif_pos hs]; rfl
    · simp only [exec, execCall, State.push, dif_neg hs]; rfl
  all_goals rfl

theorem execWord_ignores_status (w : Word) (s : State) (st : Status) :
    execWord w { s with status := st } = execWord w s := by
  cases hd : decode w with
  | some i => rw [execWord_some hd, execWord_some hd, exec_ignores_status]
  | none => rw [execWord_none hd, execWord_none hd]; rfl

theorem fetchAndExec_ignores_status (s : State) (st : Status) :
    fetchAndExec { s with status := st } = fetchAndExec s := by
  have hcheck : State.checkFetch { s with status := st } = s.checkFetch := rfl
  unfold fetchAndExec
  rw [hcheck]
  cases s.checkFetch with
  | some e => rfl
  | none => exact execWord_ignores_status s.fetch s st

/-- Settles O11: from either status the step fetches and executes, which does not read the status. -/
theorem awaitingKeyStepsAsRunning : Obligations.AwaitingKeyStepsAsRunning := by
  intro s hdue
  calc step { s with status := .awaitingKey }
    _ = fetchAndExec { stepStart s with status := .awaitingKey } := step_engaged hdue (.inr rfl)
    _ = fetchAndExec (stepStart s) := fetchAndExec_ignores_status _ _
    _ = fetchAndExec { stepStart s with status := .running } := (fetchAndExec_ignores_status _ _).symm
    _ = step { s with status := .running } := (step_engaged (s := { s with status := .running }) hdue (.inl rfl)).symm

/-- An instruction only adds to `errlog` (10_state.md R38). -/
theorem exec_keeps_logged {i : Instr} {s t : State} {b : Nat} (h : exec i s = .next t) (hb : s.errlog.getLsbD b = true) :
    t.errlog.getLsbD b = true := by
  rcases exec_cases h with ⟨e, _, _, _, rfl⟩ | hc
  · simp [(State.raise_reports s e).2, hb]
  · rcases completed_errors hc with ⟨hlog, _⟩ | ⟨_, _, _, hlog⟩ <;> simp [hlog, hb]

/-- Settles O59: of the events but `Reset` only a `Step` writes `errlog`, by an error of fetch or by its instruction. -/
theorem onlyResetClearsTheErrorLog : Obligations.OnlyResetClearsTheErrorLog := by
  intro s t hstep hreset b hb
  cases he : s.nextEvent with
  | reset image => exact absurd he (hreset image)
  | step =>
    rcases step_cases he hstep with ⟨_, rfl⟩ | ⟨_, e, _, rfl⟩ | ⟨_, _, i, _, hexec⟩
    · exact hb
    · simpa [(State.raise_reports _ e).2] using .inl hb
    · exact exec_keeps_logged hexec hb
  | keyLatch | timerTick | frameOut =>
    rw [step_eq, he] at hstep
    cases hstep
    simpa using hb

/-- Settles O60: each event but `Reset` changes only the elements it is named for, a `Step` only its two outputs. -/
theorem onlyResetLeavesIdleAndFaulted : Obligations.OnlyResetLeavesIdleAndFaulted := by
  intro s t hrest hstep hreset
  cases he : s.nextEvent with
  | reset image => exact absurd he (hreset image)
  | step =>
    cases (restingStepOnlyClearsOutputs s he hrest).symm.trans hstep
    exact ⟨rfl, rfl, fun _ _ => rfl, fun el hel => by cases el <;> simp_all [Element.same, stepStart, State.readByte]⟩
  | keyLatch | timerTick | frameOut =>
    rw [step_eq, he] at hstep
    cases hstep
    refine ⟨by simp, by simp, fun _ _ => by simp [State.readV], fun el hel => ?_⟩
    cases el <;> simp_all [Element.same, State.readByte]

end Sys2Proof.Machine
end

section
/-! PROOFS. The statements about the state right after reset and about the invariant. -/

namespace Sys2Proof.Machine

/-- Settles O53: memory lists no byte, so that each reads as the default font at 0 or as zero. -/
theorem resetStateHoldsTheSpecifiedValues : Obligations.ResetStateHoldsTheSpecifiedValues := by
  refine ⟨fun x => ?_, rfl, rfl, rfl, rfl, rfl, fun k => ?_, fun k => ?_, fun x y => ?_, rfl, rfl, rfl, rfl, rfl, rfl,
    fun a => ?_⟩
  · simp [State.readV, State.reset]
  · simp [State.reset]
  · simp [State.reset]
  · simp [pixelAt, State.reset]
  · show Memory.unlisted Config.default a = _
    split
    · next h => simpa [Config.default] using Memory.unlisted_font (c := Config.default) ⟨a, h⟩
    · next h => exact Memory.unlisted_outside (by simpa [inFont, Config.default] using h)

/-- The state after a `Reset` meets the invariant when the configuration is legal (70_reset_and_hazards.md R230). -/
theorem inv_afterReset (s : State) (image : List Byte) (h : image.length < 3585) (hcfg : s.cfg.wf = true) :
    Inv (s.afterReset image h) := by
  have hbase : s.cfg.fontBase + 80 ≤ 0x200 := of_decide_eq_true hcfg
  refine ⟨hcfg, Memory.wf_ofImage (by omega), fun k => ?_, by simp [State.reset], by simp [State.reset],
    fun k hk => absurd hk (Nat.not_lt_zero _), by simp [State.reset], ?_, ?_, nofun, nofun⟩
  · rw [State.afterReset_readByte, if_neg (by simp; omega)]
    exact Memory.unlisted_font k
  · simp [faultRecordAgrees, State.reset]
  · simp [statusRests, State.reset]

/-- Settles O56: the reset state is the one after a `Reset` without an image. -/
theorem reachableStateInvariantAtReset : Obligations.ReachableStateInvariantAtReset :=
  inv_afterReset State.reset [] (by decide) (by decide)

end Sys2Proof.Machine
end

section
/-! PROOFS. Every event keeps the invariant: the events other than `Step` touch nothing it looks at or start anew, and a
`Step` raises an error, rejects its instruction or completes it. -/

namespace Sys2Proof.Machine

/-! ### The error record (60_exceptions.md R201, R202) -/

theorem CoreError.logBit_recorded (e : CoreError) : e.logBit &&& 0xFE01 = 0 := by
  cases e <;> simp [logBit, code]

theorem errlog_codes_of_or {log : BitVec 16} (e : CoreError) (h : log &&& 0xFE01 = 0) :
    (log ||| e.logBit) &&& 0xFE01 = 0 := by
  rw [BitVec.and_or_distrib_right, h, e.logBit_recorded, BitVec.or_self]

theorem errlog_bit_of_or (log : BitVec 16) (e : CoreError) : (log ||| e.logBit).getLsbD e.code.toNat = true := by
  have hbit : e.logBit.getLsbD e.code.toNat = true := by
    cases e <;> simp [CoreError.logBit, CoreError.code]
  simp [hbit]

/-- The codes of the fatal errors (60_exceptions.md R202). -/
theorem CoreError.isFatal_code {e : CoreError} {c : Config} (h : e.isFatal c = true) :
    e.code = 7 ∨ e.code = 8 ∨ (e.code = 1 ∧ c.strictDecode = true) := by
  cases e <;> simp_all [CoreError.isFatal, CoreError.code]

/-- An engine that executes has no fault recorded (10_state.md R39). -/
theorem faultRecord_of_not_faulted {s : State} (h : faultRecordAgrees s) (hs : s.status ≠ .faulted) :
    s.faultCode = 0 ∧ s.faultPc = 0 := by
  obtain ⟨hiff, hpc, _⟩ := h
  have hcode : s.faultCode = 0 := by
    by_contra hne
    exact hs (hiff.mpr hne)
  exact ⟨hcode, hpc hcode⟩

/-- Outside FAULTED, a record of no fault agrees with the status. -/
theorem faultRecordAgrees_of_not_faulted {s : State} (hs : s.status ≠ .faulted) (hcode : s.faultCode = 0)
    (hpc : s.faultPc = 0) : faultRecordAgrees s := by
  simp [faultRecordAgrees, hs, hcode, hpc]

theorem Engaged.not_faulted {s : State} (h : Engaged s) : s.status ≠ .faulted := by
  rcases h with h | h <;> simp [h]

theorem statusRests_of_running {s : State} (h : s.status = .running) : statusRests s := by
  simp [statusRests, h]

/-- A `Step` clears its outputs, on which the invariant then demands nothing (40_engine_cycle.md R90). -/
theorem inv_stepStart {s : State} (h : Inv s) : Inv (stepStart s) := by
  obtain ⟨hcfg, hmem, hfont, hi, hpc, hstk, hlog, hfault, hrest, _, _⟩ := h
  exact ⟨hcfg, hmem, hfont, hi, hpc, hstk, hlog, hfault, hrest, nofun, nofun⟩

/-- Raising an error keeps the invariant, when a non-fatal one cannot push PC past 0x10FE. -/
theorem inv_raise {s : State} {e : CoreError} (h : Inv s) (he : Engaged s) (hself : s.selfJump = false)
    (hfetch : e.isFatal s.cfg = false → CanFetch s) : Inv (s.raise e) := by
  obtain ⟨hcfg, hmem, hfont, hi, hpc, hstk, hlog, hfault, _, _, _⟩ := h
  obtain ⟨hcode, hfpc⟩ := faultRecord_of_not_faulted hfault he.not_faulted
  have hcodes := errlog_codes_of_or e hlog
  have hbit := errlog_bit_of_or s.errlog e
  have hout : ∀ e', some e = some e' → (s.errlog ||| e.logBit).getLsbD e'.code.toNat = true := by
    intro e' h'
    cases h'
    exact hbit
  cases hf : e.isFatal s.cfg with
  | true =>
    rw [State.raise_fatal hf]
    have hfatal := CoreError.isFatal_code hf
    have hne : e.code ≠ 0 := by rcases hfatal with h | h | ⟨h, _⟩ <;> simp [h]
    refine ⟨hcfg, hmem, hfont, hi, hpc, hstk, hcodes, ?_, by simp [statusRests], by simp [hself], hout⟩
    exact ⟨iff_of_true rfl hne, fun h0 => absurd h0 hne, fun _ => ⟨rfl, hbit⟩, .inr hfatal⟩
  | false =>
    rw [State.raise_nonFatal hf]
    have hbound := canFetch_bound (hfetch hf)
    have hadv := (canFetch_advance (hfetch hf)).1
    exact ⟨hcfg, hmem, hfont, hi, (show (s.pc + 2).toNat ≤ 0x10FE by omega), hstk, hcodes,
      faultRecordAgrees_of_not_faulted (by simp) hcode hfpc, statusRests_of_running rfl, by simp [hself], hout⟩

/-! ### A completed instruction -/

section Completed

variable {i : Instr} {s t : State}

/-- A store that passed its checks lies within memory and outside the font (20_memory.md R57, R58). -/
theorem store_range {n : Nat} (hi : s.i.toNat ≤ 0x0FFF) (h : s.checkWrite n = none) :
    s.i.toNat + n ≤ 4096 ∧ ∀ j, s.i.toNat ≤ j → j < s.i.toNat + n → inFont s.cfg j = false := by
  obtain ⟨hb, hfont⟩ := State.checkWrite_none_iff.mp h
  exact ⟨by omega, hfont⟩

theorem completed_wf (hi : s.i.toNat ≤ 0x0FFF) (hmem : Memory.wf s.cfg s.mem = true) (hc : Completed i s t) :
    Memory.wf t.cfg t.mem = true := by
  rw [(completed_keeps hc).1]
  rcases completed_mem hc with hsame | ⟨bs, hcheck, hwrite⟩
  · rwa [hsame]
  · rw [hwrite]
    exact Memory.wf_writeList hmem (store_range hi hcheck).1

/-- No instruction writes the font region (20_memory.md R58). -/
theorem completed_font (hi : s.i.toNat ≤ 0x0FFF) (hmem : Memory.wf s.cfg s.mem = true) (hfont : fontIntact s)
    (hc : Completed i s t) : fontIntact t := by
  intro k
  unfold State.readByte
  rw [(completed_keeps hc).1]
  rcases completed_mem hc with hsame | ⟨bs, hcheck, hwrite⟩
  · rw [hsame]
    exact hfont k
  · obtain ⟨hb, hout⟩ := store_range hi hcheck
    have hk : inFont s.cfg (s.cfg.fontBase + k.val) = true := Memory.inFont_iff.mpr ⟨by omega, by omega⟩
    rw [hwrite, Memory.read_writeList hmem hb, if_neg]
    · exact hfont k
    · rintro ⟨h1, h2⟩
      simp [hout _ h1 h2] at hk

/-- I stays a 12-bit value under a legal configuration (10_state.md R24). -/
theorem completed_index_bound (hcfg : s.cfg.wf = true) (hi : s.i.toNat ≤ 0x0FFF) (hc : Completed i s t) :
    t.i.toNat ≤ 0x0FFF := by
  rcases completed_index hc with h | ⟨nnn, _, h⟩ | ⟨x, _, h⟩ | ⟨x, _, h⟩ <;> rw [h]
  · exact hi
  · rw [zextNnn_toNat]; omega
  · rw [indexResult_toNat]; omega
  · have hbase : s.cfg.fontBase + 80 ≤ 0x200 := of_decide_eq_true hcfg
    rw [glyphAddr_toNat hbase]; omega

/-- The entry that `RET` reads is a return address held, or the sentinel 0 (10_state.md R34). -/
theorem topOfStack_bound (hstk : stackInRange s) : s.topOfStack.toNat ≤ 0x1000 := by
  by_cases h0 : s.sp.val = 0
  · rw [(State.pop_empty h0).2]
    exact Nat.zero_le _
  · have hlt : s.sp.val - 1 < 16 := by have := s.sp.isLt; omega
    rw [(State.pop_held h0).2]
    exact (hstk ⟨s.sp.val - 1, hlt⟩ (Nat.sub_lt (Nat.pos_of_ne_zero h0) Nat.one_pos)).1

/-- PC after a fetched instruction is at most 0x10FE, the largest target of `BNNN` (10_state.md R26). -/
theorem completed_pc_bound (hfetch : CanFetch s) (hstk : stackInRange s) (hc : Completed i s t) :
    t.pc.toNat ≤ 0x10FE := by
  obtain ⟨hbound, _⟩ := canFetch_bound hfetch
  obtain ⟨hadd2, hadd4⟩ := canFetch_advance hfetch
  rcases completed_pc hc with ⟨nnn, _, h⟩ | ⟨nnn, _, h⟩ | ⟨nnn, _, h⟩ | ⟨_, h⟩ | h | ⟨h, _⟩ | ⟨h, _⟩ <;> rw [h]
  · rw [zextNnn_toNat]; omega
  · rw [zextNnn_toNat]; omega
  · rw [State.offsetTarget_toNat]; omega
  · exact (topOfStack_bound hstk).trans (by decide)
  · omega
  · omega
  · omega

/-- The return address that a fetched `CALL` pushes is in range, and other entries stay (41_control_flow.md R111). -/
theorem completed_stackInRange (hfetch : CanFetch s) (hstk : stackInRange s) (hc : Completed i s t) :
    stackInRange t := by
  intro k hk
  rcases completed_stack hc with ⟨hsp, hsame⟩ | ⟨_, hroom, hsp, hpush⟩ | ⟨_, hsp, hsame⟩
  · rw [hsame]
    exact hstk k (hsp ▸ hk)
  · obtain ⟨hbound, heven⟩ := canFetch_bound hfetch
    have hadd := (canFetch_advance hfetch).1
    by_cases htop : s.sp.val = k.val
    · have hentry : t.stk[k] = s.pc + 2 := by simp [hpush, htop]
      rw [hentry]
      omega
    · have hentry : t.stk[k] = s.stk[k] := by simp [hpush, Vector.getElem_set_ne, htop]
      rw [hentry]
      exact hstk k (by omega)
  · rw [hsame]
    exact hstk k (by omega)

/-- A completed instruction that leaves the engine waiting or idle is the one at PC, which stays there (10_state.md
R37). -/
theorem completed_statusRests (hfetch : CanFetch s) (hdec : decode s.fetch = some i) (hc : Completed i s t) :
    statusRests t := by
  rcases completed_status hc with ⟨h, _⟩ | ⟨_, ⟨x, rfl⟩, _, rfl⟩ | ⟨_, nnn, rfl, hself, rfl⟩
  · exact statusRests_of_running h
  · exact ⟨fun _ => ⟨hfetch, x, hdec⟩, nofun⟩
  · exact ⟨nofun, fun _ => ⟨hfetch, nnn, hdec, hself⟩⟩

/-- A completed instruction logs what it reports, and only codes of R201. -/
theorem completed_log (hlog : s.errlog &&& 0xFE01 = 0) (hout : s.errOut = none) (hc : Completed i s t) :
    t.errlog &&& 0xFE01 = 0 ∧ ∀ e, t.errOut = some e → t.errlog.getLsbD e.code.toNat = true := by
  rcases completed_errors hc with ⟨hsame, hnone⟩ | ⟨_, _, hreport, hadd⟩
  · rw [hsame, hnone, hout]
    exact ⟨hlog, nofun⟩
  · rw [hadd, hreport]
    refine ⟨errlog_codes_of_or (.stackUnderflow s.pc) hlog, fun e he => ?_⟩
    cases he
    exact errlog_bit_of_or s.errlog _

/-- An instruction that was fetched and completes keeps the invariant. -/
theorem inv_completed (h : Inv s) (he : Engaged s) (hself : s.selfJump = false) (hout : s.errOut = none)
    (hfetch : CanFetch s) (hdec : decode s.fetch = some i) (hc : Completed i s t) : Inv t := by
  obtain ⟨hcfg, hmem, hfont, hi, _, hstk, hlog, hfault, _, _, _⟩ := h
  obtain ⟨hcode, hfpc⟩ := faultRecord_of_not_faulted hfault he.not_faulted
  obtain ⟨hcfg', _, _, _, hcode', hfpc'⟩ := completed_keeps hc
  obtain ⟨hlog', hout'⟩ := completed_log hlog hout hc
  have hstatus : t.status ≠ .faulted ∧ (t.selfJump = true → t.status = .idle) := by
    rcases completed_status hc with ⟨h, hsame⟩ | ⟨h, _, _, rfl⟩ | ⟨h, _⟩ <;> simp_all
  exact ⟨hcfg' ▸ hcfg, completed_wf hi hmem hc, completed_font hi hmem hfont hc, completed_index_bound hcfg hi hc,
    completed_pc_bound hfetch hstk hc, completed_stackInRange hfetch hstk hc, hlog',
    faultRecordAgrees_of_not_faulted hstatus.1 (hcode'.trans hcode) (hfpc'.trans hfpc),
    completed_statusRests hfetch hdec hc, hstatus.2, hout'⟩

end Completed

/-! ### A step -/

/-- A non-fatal error of fetch or decode is that of an UNRECOGNIZED word, which was fetched. -/
theorem FetchError.canFetch {s : State} {e : CoreError} (h : FetchError s e) (hf : e.isFatal s.cfg = false) :
    CanFetch s := by
  rcases h with ⟨rfl, _⟩ | ⟨rfl, _⟩ | ⟨_, hfetch, _⟩
  · cases hf
  · cases hf
  · exact hfetch

/-- A `Step` keeps the invariant. -/
theorem inv_step_of_stepDue {s t : State} (h : Inv s) (hdue : StepDue s) (hstep : step s = .next t) : Inv t := by
  have hstart := inv_stepStart h
  rcases step_cases hdue hstep with ⟨_, rfl⟩ | ⟨he, e, herr, rfl⟩ | ⟨he, hfetch, i, hdec, hexec⟩
  · exact hstart
  · exact inv_raise hstart he rfl herr.canFetch
  · rcases exec_cases hexec with ⟨e, _, _, _, rfl⟩ | hc
    · exact inv_raise hstart he rfl fun _ => hfetch
    · exact inv_completed hstart he rfl rfl hfetch hdec hc

/-- Settles O57, event by event: the other events touch nothing the invariant looks at, and a `Reset` starts anew. -/
theorem everyStepKeepsTheInvariant : Obligations.EveryStepKeepsTheInvariant := by
  intro s t h hstep
  cases he : s.nextEvent with
  | step => exact inv_step_of_stepDue h he hstep
  | reset image =>
    rw [step_eq, he] at hstep
    by_cases hl : image.length < 3585
    · obtain ⟨hcfg, _⟩ := h
      cases (doReset_fits s.takeEvent hl).symm.trans hstep
      exact inv_afterReset s.takeEvent image hl hcfg
    · cases (doReset_oversize s.takeEvent hl).symm.trans hstep
  | keyLatch | timerTick | frameOut =>
    rw [step_eq, he] at hstep
    cases hstep
    apply h.congr <;> simp

end Sys2Proof.Machine
end

section
/-! PROOFS. The statement about which bytes of memory an instruction changes (20_memory.md R50, R57 to R59). -/

namespace Sys2Proof.Machine

/-- A completed instruction leaves memory alone, or is one of the two stores and wrote its bytes from I up, past the
checks (43_index_memory.md R153, R154). -/
theorem completed_store {i : Instr} {s t : State} (hc : Completed i s t) :
    t.mem = s.mem ∨ ∃ bs, s.checkWrite bs.length = none ∧ t = (s.writeBytes (s.effAddr 0) bs).advance
      ∧ ((∃ x, i = .ldBVx x ∧ bs.length = 3) ∨ ∃ x, i = .ldMemVx x ∧ bs.length = x.toNat + 1) := by
  cases i <;> simp only [Completed] at hc
  case ldBVx x =>
    obtain ⟨hcheck, ht⟩ := hc
    exact .inr ⟨bcdDigits (s.readV x), hcheck, ht, .inl ⟨x, rfl, rfl⟩⟩
  case ldMemVx x =>
    obtain ⟨hcheck, ht⟩ := hc
    exact .inr ⟨s.regRange x, by rwa [State.regRange_length], ht, .inr ⟨x, rfl, State.regRange_length s x⟩⟩
  case jp => split at hc <;> simp [hc]
  case call =>
    obtain ⟨_, rfl⟩ := completed_call hc
    exact .inl rfl
  case ret => rcases completed_ret hc with rfl | ⟨sp, _, rfl⟩ <;> simp
  case ldVxK => split at hc <;> simp [hc, State.takeKey]
  case drw | ldVxMem => simp [hc.2]
  all_goals simp [hc, State.setRandom]

/-- A store of at least one byte that passed its checks ends within memory (20_memory.md R57). -/
theorem checkWrite_bound {s : State} {n : Nat} (hpos : 0 < n) (hcheck : s.checkWrite n = none) :
    s.effAddr 0 + n ≤ 4096 := by
  obtain ⟨hbound, _⟩ := State.checkWrite_none_iff.mp hcheck
  simp only [State.effAddr]
  omega

/-- A byte that a checked store changes lies in its range, within memory and outside the font (20_memory.md R57, R58). -/
theorem checkedStore_changes {s : State} {bs : List Byte} {a : Nat} (hwf : Memory.wf s.cfg s.mem = true)
    (hpos : 0 < bs.length) (hcheck : s.checkWrite bs.length = none)
    (ha : (s.writeBytes (s.effAddr 0) bs).readByte a ≠ s.readByte a) :
    s.effAddr 0 ≤ a ∧ a < s.effAddr bs.length ∧ a ≤ 0xFFF
      ∧ ¬ (s.cfg.fontBase ≤ a ∧ a < s.cfg.fontBase + 80) := by
  have hbound := checkWrite_bound hpos hcheck
  have hrange : s.effAddr 0 ≤ a ∧ a < s.effAddr 0 + bs.length := by
    by_contra hout
    exact ha (by rw [State.writeBytes_readByte s _ bs a hwf hbound, if_neg hout])
  obtain ⟨hlo, hhi⟩ := hrange
  have hfont : inFont s.cfg a = false := (State.checkWrite_none_iff.mp hcheck).2 a hlo hhi
  refine ⟨hlo, hhi, by omega, fun hin => ?_⟩
  simp [Memory.inFont_iff.mpr hin] at hfont

/-- Settles O19: a rejected instruction leaves memory alone, and of the completed ones only the two stores write it,
within the range that their checks let pass. -/
theorem memoryChangesOnlyByStoresOutsideTheFont : Obligations.MemoryChangesOnlyByStoresOutsideTheFont := by
  intro i s t hwf hexec
  rcases exec_cases hexec with ⟨e, _, _, _, rfl⟩ | hc
  · exact ⟨by simpa using hwf, fun a ha => absurd (State.raise_readByte s e a) ha⟩
  rcases completed_store hc with hsame | ⟨bs, hcheck, rfl, hwriter⟩
  · have hcfg : t.cfg = s.cfg := (completed_keeps hc).1
    exact ⟨by rwa [hcfg, hsame], fun a ha => absurd (by rw [State.readByte, hcfg, hsame, State.readByte]) ha⟩
  · have hpos : 0 < bs.length := by rcases hwriter with ⟨_, _, hlen⟩ | ⟨_, _, hlen⟩ <;> omega
    refine ⟨State.writeBytes_wf s _ bs hwf (checkWrite_bound hpos hcheck), fun a ha => ?_⟩
    obtain ⟨hlo, hhi, hmem, hfont⟩ := checkedStore_changes hwf hpos hcheck ha
    refine ⟨hmem, hfont, ?_⟩
    rcases hwriter with ⟨x, rfl, hlen⟩ | ⟨x, rfl, hlen⟩ <;> rw [hlen] at hhi
    · exact .inl ⟨x, rfl, hlo, Nat.le_of_lt_succ hhi⟩
    · exact .inr ⟨x, rfl, hlo, Nat.le_of_lt_succ hhi⟩

end Sys2Proof.Machine
end

section
/-! SUPPORT. What the decoder answers, said once: for each opcode nibble, on an encoding, on a word that decodes, and on
one that does not (30_encoding.md R75 to R79). -/

namespace Sys2Proof

/-! ### One equation per opcode nibble (30_encoding.md R76) -/

/-- A case split on an opcode nibble, with a name for each case. -/
theorem nibble_cases {motive : BitVec 4 → Prop} (op0 : motive 0x0) (op1 : motive 0x1) (op2 : motive 0x2) (op3 : motive 0x3)
    (op4 : motive 0x4) (op5 : motive 0x5) (op6 : motive 0x6) (op7 : motive 0x7) (op8 : motive 0x8) (op9 : motive 0x9)
    (opA : motive 0xA) (opB : motive 0xB) (opC : motive 0xC) (opD : motive 0xD) (opE : motive 0xE) (opF : motive 0xF)
    (a : BitVec 4) : motive a := by
  obtain ⟨k⟩ := a
  fin_cases k
  exacts [op0, op1, op2, op3, op4, op5, op6, op7, op8, op9, opA, opB, opC, opD, opE, opF]

section
variable {w : Word}

theorem decode_op0 (h : fieldOp w = 0x0) :
    decode w = if w = 0x00E0 then some .cls else if w = 0x00EE then some .ret else none := by simp [decode, h]
theorem decode_op1 (h : fieldOp w = 0x1) : decode w = some (.jp (fieldNnn w)) := by simp [decode, h]
theorem decode_op2 (h : fieldOp w = 0x2) : decode w = some (.call (fieldNnn w)) := by simp [decode, h]
theorem decode_op3 (h : fieldOp w = 0x3) : decode w = some (.seVxByte (fieldX w) (fieldKk w)) := by simp [decode, h]
theorem decode_op4 (h : fieldOp w = 0x4) : decode w = some (.sneVxByte (fieldX w) (fieldKk w)) := by simp [decode, h]
theorem decode_op5 (h : fieldOp w = 0x5) :
    decode w = if fieldN w = 0 then some (.seVxVy (fieldX w) (fieldY w)) else none := by simp [decode, h]
theorem decode_op6 (h : fieldOp w = 0x6) : decode w = some (.ldVxByte (fieldX w) (fieldKk w)) := by simp [decode, h]
theorem decode_op7 (h : fieldOp w = 0x7) : decode w = some (.addVxByte (fieldX w) (fieldKk w)) := by simp [decode, h]
theorem decode_op8 (h : fieldOp w = 0x8) : decode w = decode8 (fieldX w) (fieldY w) (fieldN w) := by simp [decode, h]
theorem decode_op9 (h : fieldOp w = 0x9) :
    decode w = if fieldN w = 0 then some (.sneVxVy (fieldX w) (fieldY w)) else none := by simp [decode, h]
theorem decode_opA (h : fieldOp w = 0xA) : decode w = some (.ldIAddr (fieldNnn w)) := by simp [decode, h]
theorem decode_opB (h : fieldOp w = 0xB) : decode w = some (.jpV0Addr (fieldNnn w)) := by simp [decode, h]
theorem decode_opC (h : fieldOp w = 0xC) : decode w = some (.rndVxByte (fieldX w) (fieldKk w)) := by simp [decode, h]
theorem decode_opD (h : fieldOp w = 0xD) : decode w = some (.drw (fieldX w) (fieldY w) (fieldN w)) := by simp [decode, h]
theorem decode_opE (h : fieldOp w = 0xE) :
    decode w = if fieldKk w = 0x9E then some (.skpVx (fieldX w)) else if fieldKk w = 0xA1 then some (.sknpVx (fieldX w))
      else none := by simp [decode, h]
theorem decode_opF (h : fieldOp w = 0xF) : decode w = decodeF (fieldX w) (fieldKk w) := by simp [decode, h]

end

/-! ### Decoding an encoding -/

/-- The fields that `decode` reads from an encoding are the ones that `encode` wrote (30_encoding.md R75, R76). -/
theorem decode_encode (i : Instr) : decode (encode i) = some i := by
  cases i
  case cls | ret => rfl
  case seVxVy => simp [encode, decode_op5]
  case sneVxVy => simp [encode, decode_op9]
  case skpVx | sknpVx => simp [encode, decode_opE]
  case ldVxVy | orVxVy | andVxVy | xorVxVy | addVxVy | subVxVy | shrVx | subnVxVy | shlVx =>
    simp [encode, decode_op8, decode8]
  case ldVxDt | ldVxK | ldDtVx | ldStVx | addIVx | ldFVx | ldBVx | ldMemVx | ldVxMem =>
    simp [encode, decode_opF, decodeF]
  all_goals
    simp [encode, decode_op1, decode_op2, decode_op3, decode_op4, decode_op6, decode_op7, decode_opA, decode_opB,
      decode_opC, decode_opD]

/-! ### A word that decodes -/

section
variable {w : Word} {op : BitVec 4}

theorem encodeFA_of_fields (h : fieldOp w = op) : encodeFA op (fieldNnn w) = w := h ▸ encodeFA_fields w

theorem encodeFI_of_fields {kk : Byte} (h : fieldOp w = op) (hk : fieldKk w = kk) : encodeFI op (fieldX w) kk = w :=
  h ▸ hk ▸ encodeFI_fields w

theorem encodeFR_of_fields {n : BitVec 4} (h : fieldOp w = op) (hn : fieldN w = n) :
    encodeFR op (fieldX w) (fieldY w) n = w := h ▸ hn ▸ encodeFR_fields w

end

/-- Mask 0xFF0F clears the `y` nibble. -/
theorem and_maskOpXN (w : Word) : w &&& 0xFF0F = encodeFR (fieldOp w) (fieldX w) 0 (fieldN w) := by
  rw [and_eq_iff]
  simp [show fieldOp 0xFF0F#16 = 0xF#4 from rfl, show fieldX 0xFF0F#16 = 0xF#4 from rfl,
    show fieldY 0xFF0F#16 = 0#4 from rfl, show fieldN 0xFF0F#16 = 0xF#4 from rfl, and_nibble]

/-- The encoding of an instruction of family 8 has the fields it was decoded from, but the `y` of the shifts. -/
theorem encode_of_decode8 {x y n : BitVec 4} {i : Instr} (h : decode8 x y n = some i) :
    encode i = encodeFR 0x8 x y n ∨ ((∃ x', i = .shrVx x' ∨ i = .shlVx x') ∧ encode i = encodeFR 0x8 x 0 n) := by
  unfold decode8 at h
  split at h <;> cases h <;> simp [encode]

/-- The encoding of an instruction of family F has the fields it was decoded from. -/
theorem encode_of_decodeF {x : BitVec 4} {kk : Byte} {i : Instr} (h : decodeF x kk = some i) :
    encode i = encodeFI 0xF x kk := by
  unfold decodeF at h
  split at h <;> cases h <;> rfl

theorem encode_of_decode_eq {w : Word} {i j : Instr} (h : decode w = some i) (hj : decode w = some j) (he : encode j = w) :
    encode i = w := by
  obtain rfl := Option.some.inj (h.symm.trans hj)
  exact he

/-! ### A word that does not decode (30_encoding.md R77) -/

theorem decode8_eq_none {x y n : BitVec 4} : decode8 x y n = none ↔ n ∈ [0x8#4, 0x9, 0xA, 0xB, 0xC, 0xD, 0xF] := by
  cases n using nibble_cases <;> simp [decode8]

theorem decodeF_eq_none {x : BitVec 4} {kk : Byte} :
    decodeF x kk = none ↔ kk ∉ [0x07#8, 0x0A, 0x15, 0x18, 0x1E, 0x29, 0x33, 0x55, 0x65] := by
  unfold decodeF
  split <;> simp_all

/-- Two bytes that are rejected are the bytes of an UNRECOGNIZED word. -/
theorem decodeBytes_eq_unrecognized {hi lo : Byte} {w : Word} (h : decodeBytes [hi, lo] = .unrecognized w []) :
    w = wordOfBytes hi lo ∧ decode w = none := by
  cases hd : decode (wordOfBytes hi lo) with
  | some i => simp [decodeBytes, hd] at h
  | none =>
    obtain rfl : wordOfBytes hi lo = w := by simpa [decodeBytes, hd] using h
    exact ⟨rfl, hd⟩

end Sys2Proof
end

section
/-! SUPPORT. Each row of the opcode map: its words decode by the row's own line (30_encoding.md R75). -/

namespace Sys2Proof.Machine

/-- Formats FA, FI and FD: the row's mask is 0xF000. -/
theorem selects_maskOp {p : Word} {op : BitVec 4} {f : Word → Instr} (hp : p = encodeFR op 0 0 0)
    (h : ∀ {w}, fieldOp w = op → decode w = some (f w)) : Selects p 0xF000 f :=
  fun _ hw => h (fieldOp_of_mask (hw.trans hp))

/-- Format FR: the row's mask is 0xF00F. -/
theorem selects_maskOpN {p : Word} {op n : BitVec 4} {f : Word → Instr} (hp : p = encodeFR op 0 0 n)
    (h : ∀ {w}, fieldOp w = op → fieldN w = n → decode w = some (f w)) : Selects p 0xF00F f := by
  intro w hw
  obtain ⟨hop, hn⟩ := fieldOpN_of_mask (hw.trans hp)
  exact h hop hn

/-- Format FX: the row's mask is 0xF0FF. -/
theorem selects_maskOpKk {p : Word} {op : BitVec 4} {kk : Byte} {f : Word → Instr} (hp : p = encodeFI op 0 kk)
    (h : ∀ {w}, fieldOp w = op → fieldKk w = kk → decode w = some (f w)) : Selects p 0xF0FF f := by
  intro w hw
  obtain ⟨hop, hk⟩ := fieldOpKk_of_mask (hw.trans hp)
  exact h hop hk

/-- A row of a single word: the row's mask is 0xFFFF. -/
theorem selects_word {p : Word} {i : Instr} (h : decode p = some i) : Selects p 0xFFFF (fun _ => i) := by
  intro w hw
  obtain rfl : w = p := (BitVec.and_allOnes (x := w)).symm.trans hw
  exact h

theorem selects_family8 {p : Word} {n : BitVec 4} {f : Word → Instr} (hp : p = encodeFR 0x8 0 0 n)
    (h : ∀ w, decode8 (fieldX w) (fieldY w) n = some (f w)) : Selects p 0xF00F f :=
  selects_maskOpN hp fun {w} hop hn => by rw [decode_op8 hop, hn, h]

theorem selects_familyF {p : Word} {kk : Byte} {f : Word → Instr} (hp : p = encodeFI 0xF 0 kk)
    (h : ∀ w, decodeF (fieldX w) kk = some (f w)) : Selects p 0xF0FF f :=
  selects_maskOpKk hp fun {w} hop hk => by rw [decode_opF hop, hk, h]

theorem selects_cls : Selects 0x00E0 0xFFFF (fun _ => .cls) := selects_word rfl
theorem selects_ret : Selects 0x00EE 0xFFFF (fun _ => .ret) := selects_word rfl
theorem selects_jp : Selects 0x1000 0xF000 (fun w => .jp (fieldNnn w)) := selects_maskOp rfl decode_op1
theorem selects_call : Selects 0x2000 0xF000 (fun w => .call (fieldNnn w)) := selects_maskOp rfl decode_op2
theorem selects_seVxByte : Selects 0x3000 0xF000 (fun w => .seVxByte (fieldX w) (fieldKk w)) := selects_maskOp rfl decode_op3
theorem selects_sneVxByte : Selects 0x4000 0xF000 (fun w => .sneVxByte (fieldX w) (fieldKk w)) :=
  selects_maskOp rfl decode_op4
theorem selects_seVxVy : Selects 0x5000 0xF00F (fun w => .seVxVy (fieldX w) (fieldY w)) :=
  selects_maskOpN rfl fun hop hn => (decode_op5 hop).trans (if_pos hn)
theorem selects_ldVxByte : Selects 0x6000 0xF000 (fun w => .ldVxByte (fieldX w) (fieldKk w)) := selects_maskOp rfl decode_op6
theorem selects_addVxByte : Selects 0x7000 0xF000 (fun w => .addVxByte (fieldX w) (fieldKk w)) :=
  selects_maskOp rfl decode_op7
theorem selects_ldVxVy : Selects 0x8000 0xF00F (fun w => .ldVxVy (fieldX w) (fieldY w)) :=
  selects_family8 (n := 0x0) rfl fun _ => rfl
theorem selects_orVxVy : Selects 0x8001 0xF00F (fun w => .orVxVy (fieldX w) (fieldY w)) :=
  selects_family8 (n := 0x1) rfl fun _ => rfl
theorem selects_andVxVy : Selects 0x8002 0xF00F (fun w => .andVxVy (fieldX w) (fieldY w)) :=
  selects_family8 (n := 0x2) rfl fun _ => rfl
theorem selects_xorVxVy : Selects 0x8003 0xF00F (fun w => .xorVxVy (fieldX w) (fieldY w)) :=
  selects_family8 (n := 0x3) rfl fun _ => rfl
theorem selects_addVxVy : Selects 0x8004 0xF00F (fun w => .addVxVy (fieldX w) (fieldY w)) :=
  selects_family8 (n := 0x4) rfl fun _ => rfl
theorem selects_subVxVy : Selects 0x8005 0xF00F (fun w => .subVxVy (fieldX w) (fieldY w)) :=
  selects_family8 (n := 0x5) rfl fun _ => rfl
theorem selects_shrVx : Selects 0x8006 0xF00F (fun w => .shrVx (fieldX w)) := selects_family8 (n := 0x6) rfl fun _ => rfl
theorem selects_subnVxVy : Selects 0x8007 0xF00F (fun w => .subnVxVy (fieldX w) (fieldY w)) :=
  selects_family8 (n := 0x7) rfl fun _ => rfl
theorem selects_shlVx : Selects 0x800E 0xF00F (fun w => .shlVx (fieldX w)) := selects_family8 (n := 0xE) rfl fun _ => rfl
theorem selects_sneVxVy : Selects 0x9000 0xF00F (fun w => .sneVxVy (fieldX w) (fieldY w)) :=
  selects_maskOpN rfl fun hop hn => (decode_op9 hop).trans (if_pos hn)
theorem selects_ldIAddr : Selects 0xA000 0xF000 (fun w => .ldIAddr (fieldNnn w)) := selects_maskOp rfl decode_opA
theorem selects_jpV0Addr : Selects 0xB000 0xF000 (fun w => .jpV0Addr (fieldNnn w)) := selects_maskOp rfl decode_opB
theorem selects_rndVxByte : Selects 0xC000 0xF000 (fun w => .rndVxByte (fieldX w) (fieldKk w)) :=
  selects_maskOp rfl decode_opC
theorem selects_drw : Selects 0xD000 0xF000 (fun w => .drw (fieldX w) (fieldY w) (fieldN w)) := selects_maskOp rfl decode_opD
theorem selects_skpVx : Selects 0xE09E 0xF0FF (fun w => .skpVx (fieldX w)) :=
  selects_maskOpKk rfl fun hop hk => (decode_opE hop).trans (if_pos hk)
theorem selects_sknpVx : Selects 0xE0A1 0xF0FF (fun w => .sknpVx (fieldX w)) :=
  selects_maskOpKk (op := 0xE) (kk := 0xA1) rfl fun hop hk => by simp [decode_opE hop, hk]
theorem selects_ldVxDt : Selects 0xF007 0xF0FF (fun w => .ldVxDt (fieldX w)) := selects_familyF (kk := 0x07) rfl fun _ => rfl
theorem selects_ldVxK : Selects 0xF00A 0xF0FF (fun w => .ldVxK (fieldX w)) := selects_familyF (kk := 0x0A) rfl fun _ => rfl
theorem selects_ldDtVx : Selects 0xF015 0xF0FF (fun w => .ldDtVx (fieldX w)) := selects_familyF (kk := 0x15) rfl fun _ => rfl
theorem selects_ldStVx : Selects 0xF018 0xF0FF (fun w => .ldStVx (fieldX w)) := selects_familyF (kk := 0x18) rfl fun _ => rfl
theorem selects_addIVx : Selects 0xF01E 0xF0FF (fun w => .addIVx (fieldX w)) := selects_familyF (kk := 0x1E) rfl fun _ => rfl
theorem selects_ldFVx : Selects 0xF029 0xF0FF (fun w => .ldFVx (fieldX w)) := selects_familyF (kk := 0x29) rfl fun _ => rfl
theorem selects_ldBVx : Selects 0xF033 0xF0FF (fun w => .ldBVx (fieldX w)) := selects_familyF (kk := 0x33) rfl fun _ => rfl
theorem selects_ldMemVx : Selects 0xF055 0xF0FF (fun w => .ldMemVx (fieldX w)) :=
  selects_familyF (kk := 0x55) rfl fun _ => rfl
theorem selects_ldVxMem : Selects 0xF065 0xF0FF (fun w => .ldVxMem (fieldX w)) :=
  selects_familyF (kk := 0x65) rfl fun _ => rfl

/-- The words of every row decode. -/
theorem opcodeMap_selects : ∀ r ∈ opcodeMap, ∃ f, Selects r.pat r.mask f := by
  simp only [opcodeMap, opcodeRows1to18, opcodeRows19to34, List.cons_append, List.nil_append, List.forall_mem_cons]
  exact ⟨⟨_, selects_cls⟩, ⟨_, selects_ret⟩, ⟨_, selects_jp⟩, ⟨_, selects_call⟩, ⟨_, selects_seVxByte⟩,
    ⟨_, selects_sneVxByte⟩, ⟨_, selects_seVxVy⟩, ⟨_, selects_ldVxByte⟩, ⟨_, selects_addVxByte⟩, ⟨_, selects_ldVxVy⟩,
    ⟨_, selects_orVxVy⟩, ⟨_, selects_andVxVy⟩, ⟨_, selects_xorVxVy⟩, ⟨_, selects_addVxVy⟩, ⟨_, selects_subVxVy⟩,
    ⟨_, selects_shrVx⟩, ⟨_, selects_subnVxVy⟩, ⟨_, selects_shlVx⟩, ⟨_, selects_sneVxVy⟩, ⟨_, selects_ldIAddr⟩,
    ⟨_, selects_jpV0Addr⟩, ⟨_, selects_rndVxByte⟩, ⟨_, selects_drw⟩, ⟨_, selects_skpVx⟩, ⟨_, selects_sknpVx⟩,
    ⟨_, selects_ldVxDt⟩, ⟨_, selects_ldVxK⟩, ⟨_, selects_ldDtVx⟩, ⟨_, selects_ldStVx⟩, ⟨_, selects_addIVx⟩,
    ⟨_, selects_ldFVx⟩, ⟨_, selects_ldBVx⟩, ⟨_, selects_ldMemVx⟩, ⟨_, selects_ldVxMem⟩, List.forall_mem_nil _⟩

/-- No two rows of the opcode map agree on the bits that both compare (30_encoding.md R75). -/
theorem opcodeMap_disjoint : ∀ r ∈ opcodeMap, ∀ r' ∈ opcodeMap, r.pat &&& r'.mask = r'.pat &&& r.mask → r = r' := by
  decide

/-- The rows of the shifts do not compare the `y` nibble (30_encoding.md R79). -/
theorem opcodeMap_shift_mask : ∀ r ∈ opcodeMap, r.num = 16 ∨ r.num = 18 → 0xFF0F &&& r.mask = r.mask := by
  decide

open Laws.Encoding in
/-- The encoding of every instruction matches its own row. -/
theorem encode_matches_row (i : Instr) : ∃ r ∈ opcodeMap, r.num = rowNumber i ∧ encode i &&& r.mask = r.pat := by
  have hrow : Statement i := by
    cases i
    exacts [cls, ret, jp _, call _, seVxByte _ _, sneVxByte _ _, seVxVy _ _, ldVxByte _ _, addVxByte _ _, ldVxVy _ _,
      orVxVy _ _, andVxVy _ _, xorVxVy _ _, addVxVy _ _, subVxVy _ _, shrVx _, subnVxVy _ _, shlVx _, sneVxVy _ _,
      ldIAddr _, jpV0Addr _, rndVxByte _ _, drw _ _ _, skpVx _, sknpVx _, ldVxDt _, ldVxK _, ldDtVx _, ldStVx _,
      addIVx _, ldFVx _, ldBVx _, ldMemVx _, ldVxMem _]
  obtain ⟨r, hr, hnum, hsel⟩ := hrow
  exact ⟨r, hr, hnum, by simpa [OpRow.selects] using hsel⟩

end Sys2Proof.Machine
end

section
/-! PROOFS. The statements about decoding and encoding (30_encoding.md R70 to R79). -/

namespace Sys2Proof.Machine

/-- Settles O1: decoding bytes is decoding their word, and a word's fields are those that `encode` wrote. -/
theorem decodeOfEncodeIsTheInstruction : Obligations.DecodeOfEncodeIsTheInstruction :=
  fun i rest => ⟨decode_encode i, decodeBytes_encodeBytes i rest (decode_encode i)⟩

/-- Settles O2, nibble by nibble: a word is built from the fields that its instruction holds, and only the shifts of
family 8 leave a field out, their `y`. -/
theorem encodeOfDecodeIsTheWordUpToIgnoredBits : Obligations.EncodeOfDecodeIsTheWordUpToIgnoredBits := by
  intro w i h
  cases hop : fieldOp w using nibble_cases with
  | op8 =>
    rw [decode_op8 hop] at h
    rw [and_maskOpXN, hop]
    simpa only [encodeFR_of_fields hop rfl] using encode_of_decode8 h
  | op0 =>
    rw [decode_op0 hop] at h
    split_ifs at h with hw hw <;> cases h <;> exact .inl hw.symm
  | op1 => exact .inl (encode_of_decode_eq h (decode_op1 hop) (encodeFA_of_fields hop))
  | op2 => exact .inl (encode_of_decode_eq h (decode_op2 hop) (encodeFA_of_fields hop))
  | op3 => exact .inl (encode_of_decode_eq h (decode_op3 hop) (encodeFI_of_fields hop rfl))
  | op4 => exact .inl (encode_of_decode_eq h (decode_op4 hop) (encodeFI_of_fields hop rfl))
  | op5 =>
    rw [decode_op5 hop] at h
    split_ifs at h with hn
    cases h
    exact .inl (encodeFR_of_fields hop hn)
  | op6 => exact .inl (encode_of_decode_eq h (decode_op6 hop) (encodeFI_of_fields hop rfl))
  | op7 => exact .inl (encode_of_decode_eq h (decode_op7 hop) (encodeFI_of_fields hop rfl))
  | op9 =>
    rw [decode_op9 hop] at h
    split_ifs at h with hn
    cases h
    exact .inl (encodeFR_of_fields hop hn)
  | opA => exact .inl (encode_of_decode_eq h (decode_opA hop) (encodeFA_of_fields hop))
  | opB => exact .inl (encode_of_decode_eq h (decode_opB hop) (encodeFA_of_fields hop))
  | opC => exact .inl (encode_of_decode_eq h (decode_opC hop) (encodeFI_of_fields hop rfl))
  | opD => exact .inl (encode_of_decode_eq h (decode_opD hop) (encodeFR_of_fields hop rfl))
  | opE =>
    rw [decode_opE hop] at h
    split_ifs at h with hk hk <;> cases h <;> exact .inl (encodeFI_of_fields hop hk)
  | opF =>
    rw [decode_opF hop] at h
    exact .inl ((encode_of_decodeF h).trans (encodeFI_of_fields hop rfl))

/-- Settles O3. A word that matched two rows would make them agree on the bits that both compare; a decoded word matches
the row that its encoding matches, and every row's words decode. -/
theorem decodingFollowsTheOpcodeMap : Obligations.DecodingFollowsTheOpcodeMap := by
  refine ⟨rfl, fun w r r' hr hr' hw hw' => ?_, fun w i h => ?_, fun w hnone r hr hw => ?_⟩
  · refine opcodeMap_disjoint r hr r' hr' ?_
    rw [← hw, ← hw', BitVec.and_assoc, BitVec.and_assoc, BitVec.and_comm r.mask]
  · obtain ⟨r, hr, hnum, henc⟩ := encode_matches_row i
    refine ⟨r, hr, hnum, ?_⟩
    rcases encodeOfDecodeIsTheWordUpToIgnoredBits w i h with hword | ⟨⟨x, hshift⟩, hword⟩
    · rw [← hword, henc]
    · have hmask : 0xFF0F &&& r.mask = r.mask :=
        opcodeMap_shift_mask r hr (by rcases hshift with rfl | rfl <;> simp [hnum, rowNumber])
      rw [← hmask, ← BitVec.and_assoc, ← hword, henc]
  · obtain ⟨f, hf⟩ := opcodeMap_selects r hr
    cases hnone.symm.trans (hf w hw)

/-- Settles O4, nibble by nibble: the families of R77 are those whose equation of `decode` can answer nothing. -/
theorem unrecognizedWordsAreTheListedFamilies : Obligations.UnrecognizedWordsAreTheListedFamilies := by
  intro w
  cases hop : fieldOp w using nibble_cases with
  | op0 => simp [decode_op0 hop, ite_eq_iff]
  | op5 => simp [decode_op5 hop]
  | op8 => simp [decode_op8 hop, decode8_eq_none]
  | op9 => simp [decode_op9 hop]
  | opE => simp [decode_opE hop, ite_eq_iff]
  | opF => simp [decode_opF hop, decodeF_eq_none]
  | _ => simp [decode, hop]

/-- Settles O5: the decoder evaluated on each word. -/
theorem sampleWordsDecode : Obligations.SampleWordsDecode := by
  unfold Obligations.SampleWordsDecode
  decide

/-- A `Step` on an UNRECOGNIZED word raises UNKNOWN_OPCODE with the word and PC (30_encoding.md R78). -/
theorem step_unrecognized {s : State} {w : Word} (hdue : StepDue s) (he : Engaged s) (hfetch : CanFetch s)
    (hbytes : decodeBytes [s.readByte s.pc.toNat, s.readByte (s.pc.toNat + 1)] = .unrecognized w []) :
    step s = .next ((stepStart s).raise (.unknownOpcode w s.pc)) := by
  obtain ⟨rfl, hnone⟩ := decodeBytes_eq_unrecognized hbytes
  rw [step_engaged hdue he, fetchAndExec_canFetch (s := stepStart s) hfetch]
  exact execWord_none hnone

/-- Settles O9: STRICT_DECODE decides whether UNKNOWN_OPCODE is fatal. -/
theorem unrecognizedWordIsSkippedOrHalts : Obligations.UnrecognizedWordIsSkippedOrHalts := by
  intro s w hdue he hfetch hbytes
  have hstep := step_unrecognized hdue he hfetch hbytes
  exact ⟨fun hskip => ⟨_, hstep, State.raise_rejected hskip⟩, fun hstrict => ⟨_, hstep, State.raise_faults hstrict⟩⟩

end Sys2Proof.Machine
end

section
/-! PROOFS. The statements about the fetch, the status and the outputs of a `Step` (40_engine_cycle.md R90 to R99;
60_exceptions.md R202). -/

namespace Sys2Proof.Machine

/-! ### Fetch (40_engine_cycle.md R91 to R94) -/

theorem State.checkFetch_odd {s : State} (h : s.pc.toNat % 2 = 1) : s.checkFetch = some (.misalignedFetch s.pc) :=
  if_pos (odd_iff.mpr h)

theorem State.checkFetch_past {s : State} (heven : s.pc.toNat % 2 = 0) (hpast : s.pc.toNat + 2 > 0x200 + s.romLen.val) :
    s.checkFetch = some (.fetchOutOfBounds s.pc) := by
  unfold checkFetch
  rw [even_iff.mpr heven, if_neg Bool.false_ne_true]
  exact if_pos hpast

/-- A fetch check that fails on a fatal error faults the `Step`. -/
theorem step_faults_of_checkFetch {s : State} {e : CoreError} (hdue : StepDue s) (he : Engaged s)
    (hcheck : (stepStart s).checkFetch = some e) (hfatal : e.isFatal s.cfg = true) :
    ∃ t, step s = .next t ∧ Faults e (stepStart s) t := by
  refine ⟨(stepStart s).raise e, ?_, State.raise_faults hfatal⟩
  rw [step_engaged hdue he, fetchAndExec, hcheck]

/-- Where a fetch is permitted, the `Step` executes the word at PC. -/
theorem step_canFetch {s : State} (hdue : StepDue s) (he : Engaged s) (hfetch : CanFetch s) :
    step s = execWord s.fetch (stepStart s) :=
  (step_engaged hdue he).trans (fetchAndExec_canFetch (s := stepStart s) hfetch)

/-- Two bytes that decode to an instruction are the bytes of a word that does. -/
theorem decodeBytes_eq_instr {hi lo : Byte} {i : Instr} (h : decodeBytes [hi, lo] = .instr i []) :
    decode (wordOfBytes hi lo) = some i := by
  cases hd : decode (wordOfBytes hi lo) with
  | some j => simpa [decodeBytes, hd] using h
  | none => simp [decodeBytes, hd] at h

/-- Settles O6: a permitted fetch executes the word at PC, and a word that decodes executes its instruction. -/
theorem stepRunsTheDecodedInstruction : Obligations.StepRunsTheDecodedInstruction := by
  intro s i hdue he hfetch hbytes
  exact (step_canFetch hdue he hfetch).trans (execWord_some (decodeBytes_eq_instr hbytes))

/-- Settles O7: the alignment is checked before the bound. -/
theorem oddPcFaultsAtFetch : Obligations.OddPcFaultsAtFetch :=
  fun s hdue he hodd => step_faults_of_checkFetch hdue he (State.checkFetch_odd (s := stepStart s) hodd) rfl

/-- Settles O8: with PC even, the bound alone decides between the fault and the fetch. -/
theorem fetchPastTheImageFaults : Obligations.FetchPastTheImageFaults := by
  intro s hdue he heven
  refine ⟨fun hpast => ?_, fun hin => ?_⟩
  · exact step_faults_of_checkFetch hdue he (State.checkFetch_past (s := stepStart s) heven hpast) rfl
  · exact step_canFetch hdue he ⟨even_iff.mpr heven, hin⟩

/-! ### The status after an instruction (40_engine_cycle.md R95) -/

/-- The instruction is `FX0A` and no key is pressed (45_keypad_timers.md R183). -/
def IsKeyWait (i : Instr) (s : State) : Prop := (∃ x, i = .ldVxK x) ∧ ∀ k : Fin 16, s.key[k] = false

/-- The instruction is a `JP` to its own address (41_control_flow.md R110). -/
def IsSelfJump (i : Instr) (s : State) : Prop := ∃ nnn : BitVec 12, i = .jp nnn ∧ nnn.toNat = s.pc.toNat

theorem exec_of_isKeyWait {i : Instr} {s : State} (h : IsKeyWait i s) : exec i s = .next s.awaitKey := by
  obtain ⟨⟨x, rfl⟩, hkeys⟩ := h
  exact if_pos (List.isEmpty_iff.mpr (State.pressedKeys_eq_nil.mpr hkeys))

theorem exec_of_isSelfJump {i : Instr} {s : State} (h : IsSelfJump i s) : exec i s = .next (s.goIdle s.pc) := by
  obtain ⟨nnn, rfl, hself⟩ := h
  have htarget : zextNnn nnn = s.pc := zextNnn_eq_iff.mpr hself
  simp only [exec, execJp, htarget, if_true]

/-- An instruction that neither waits nor jumps to itself leaves RUNNING, rejected or completed, and `selfjump_out` as it
was. -/
theorem exec_running {i : Instr} {s t : State} (hwait : ¬ IsKeyWait i s) (hself : ¬ IsSelfJump i s)
    (hexec : exec i s = .next t) : t.status = .running ∧ t.selfJump = s.selfJump := by
  rcases exec_cases hexec with ⟨e, hnonFatal, _, _, rfl⟩ | hc
  · rw [State.raise_nonFatal hnonFatal]
    exact ⟨rfl, rfl⟩
  · rcases completed_status hc with hrunning | ⟨_, hi, hkeys, _⟩ | ⟨_, nnn, hi, htarget, _⟩
    · exact hrunning
    · exact absurd ⟨hi, State.pressedKeys_eq_nil.mp hkeys⟩ hwait
    · exact absurd ⟨nnn, hi, zextNnn_eq_iff.mp htarget⟩ hself

/-- Settles O15: a waiting `FX0A` and a self-jump each have one outcome, and every other instruction leaves RUNNING. -/
theorem statusAfterAnInstruction : Obligations.StatusAfterAnInstruction := by
  intro i s t hexec
  by_cases hwait : IsKeyWait i s
  · cases (exec_of_isKeyWait hwait).symm.trans hexec
    exact .inl ⟨rfl, hwait⟩
  by_cases hself : IsSelfJump i s
  · cases (exec_of_isSelfJump hself).symm.trans hexec
    exact .inr (.inl ⟨rfl, hself⟩)
  · exact .inr (.inr ⟨(exec_running hwait hself hexec).1, hwait, hself⟩)

/-! ### The outputs of a `Step` (40_engine_cycle.md R99) -/

/-- An instruction sets `selfjump_out` exactly when it is a self-jump. -/
theorem exec_selfJump_iff {i : Instr} {s t : State} (hs : s.selfJump = false) (hexec : exec i s = .next t) :
    t.selfJump = true ↔ IsSelfJump i s := by
  by_cases hself : IsSelfJump i s
  · cases (exec_of_isSelfJump hself).symm.trans hexec
    exact iff_of_true rfl hself
  · refine iff_of_false ?_ hself
    by_cases hwait : IsKeyWait i s
    · cases (exec_of_isKeyWait hwait).symm.trans hexec
      simp [hs]
    · simp [(exec_running hwait hself hexec).2, hs]

/-- Between the states `err_out` was left 0 and `errlog` unchanged, or one error went into both (60_exceptions.md R202). -/
def RecordsAtMostOne (s t : State) : Prop :=
  (t.errOut = none ∧ t.errlog = s.errlog)
    ∨ ∃ e, t.errOut = some e ∧ t.errlog = s.errlog ||| 1#16 <<< e.code.toNat

theorem exec_recordsAtMostOne {i : Instr} {s t : State} (hs : s.errOut = none) (hexec : exec i s = .next t) :
    RecordsAtMostOne s t := by
  rcases exec_cases hexec with ⟨e, _, _, _, rfl⟩ | hc
  · exact .inr ⟨e, State.raise_reports s e⟩
  · rcases completed_errors hc with ⟨hlog, hout⟩ | ⟨_, _, hreport⟩
    · exact .inl ⟨hout.trans hs, hlog⟩
    · exact .inr ⟨_, hreport⟩

theorem step_recordsAtMostOne {s t : State} (hdue : StepDue s) (hstep : step s = .next t) :
    RecordsAtMostOne (stepStart s) t := by
  rcases step_cases hdue hstep with ⟨_, rfl⟩ | ⟨_, e, _, rfl⟩ | ⟨_, _, i, _, hexec⟩
  · exact .inl ⟨rfl, rfl⟩
  · exact .inr ⟨e, State.raise_reports _ e⟩
  · exact exec_recordsAtMostOne rfl hexec

/-- An error of fetch or decode leaves no instruction to execute. -/
theorem FetchError.not_decodes {s : State} {e : CoreError} {i : Instr} (h : FetchError s e) (hfetch : CanFetch s) :
    decode s.fetch ≠ some i := by
  obtain ⟨heven, hbound⟩ := hfetch
  rcases h with ⟨_, hodd⟩ | ⟨_, _, hpast⟩ | ⟨_, _, hnone⟩
  · cases heven.symm.trans hodd
  · omega
  · simp [hnone]

/-- A `Step` sets `selfjump_out` exactly when it executes a self-jump. -/
theorem step_selfJump_iff {s t : State} (hdue : StepDue s) (hstep : step s = .next t) :
    t.selfJump = true ↔ Engaged s ∧ CanFetch s ∧ ∃ nnn : BitVec 12, decode s.fetch = some (.jp nnn)
      ∧ nnn.toNat = s.pc.toNat := by
  rcases step_cases hdue hstep with ⟨hrest, rfl⟩ | ⟨_, e, herror, rfl⟩ | ⟨he, hfetch, i, hdec, hexec⟩
  · exact iff_of_false Bool.false_ne_true fun ⟨he, _⟩ => hrest he
  · refine iff_of_false (by simp [stepStart]) ?_
    rintro ⟨_, hfetch, nnn, hdec, _⟩
    exact herror.not_decodes hfetch hdec
  · rw [exec_selfJump_iff rfl hexec]
    constructor
    · rintro ⟨nnn, rfl, hself⟩
      exact ⟨he, hfetch, nnn, hdec, hself⟩
    · rintro ⟨_, _, nnn, hjp, hself⟩
      exact ⟨nnn, Option.some.inj (hdec.symm.trans hjp), hself⟩

/-- Settles O12: a `Step` records at most one error, in both places, and at rest it only clears the outputs. -/
theorem outputsReportTheStep : Obligations.OutputsReportTheStep := by
  intro s t hdue hstep
  have hrecord := step_recordsAtMostOne hdue hstep
  refine ⟨fun hnone => ?_, fun e hsome => ?_, fun hrest => ?_, step_selfJump_iff hdue hstep⟩
  · rcases hrecord with ⟨_, hlog⟩ | ⟨e, hout, _⟩
    · exact hlog
    · cases hnone.symm.trans hout
  · rcases hrecord with ⟨hout, _⟩ | ⟨e', hout, hlog⟩
    · cases hout.symm.trans hsome
    · cases hout.symm.trans hsome
      exact hlog
  · cases (restingStepOnlyClearsOutputs s hdue hrest).symm.trans hstep
    exact ⟨rfl, rfl⟩

/-! ### A placed word (log 6) -/

/-- A word is placed at an even address within memory. -/
theorem State.fetchPc_range (s : State) : s.fetchPc.toNat % 2 = 0 ∧ s.fetchPc.toNat + 2 ≤ 4096 := by
  unfold fetchPc
  split
  · decide
  · next heven =>
    split
    · decide
    · next hpast => exact ⟨even_iff.mp (Bool.not_eq_true _ ▸ heven), by omega⟩

/-- The raised `ROM_LEN` covers a word that lies within memory. -/
theorem State.romLenFor_covers (s : State) {a : Nat} (ha : a + 2 ≤ 4096) : a + 2 ≤ 0x200 + (s.romLenFor a).val := by
  unfold romLenFor
  split
  · next hraise =>
    have hlen : a + 2 - 0x200 < 3585 := by omega
    simp only [Fin.val_ofNat, Nat.mod_eq_of_lt hlen]
    omega
  · next hkeep => simpa [State.loadEnd] using hkeep

theorem withFetchWord_canFetch (s : State) (nbits w : Nat) : CanFetch (s.withFetchWord nbits w) := by
  obtain ⟨heven, hbound⟩ := s.fetchPc_range
  exact ⟨even_iff.mpr heven, s.romLenFor_covers hbound⟩

/-- Two bytes stored within memory read back. -/
theorem Memory.read_writeList_pair {c : Config} {m : Memory} {a : Nat} {hi lo : Byte} (hwf : Memory.wf c m = true)
    (ha : a + 2 ≤ 4096) :
    Memory.read c (Memory.writeList c m a [hi, lo]) a = hi
      ∧ Memory.read c (Memory.writeList c m a [hi, lo]) (a + 1) = lo := by
  have hlen : a + [hi, lo].length ≤ 4096 := ha
  simp [Memory.read_writeList hwf hlen]

/-- The fetch after a word is placed reads that word back (20_memory.md R54, R59). -/
theorem withFetchWord_fetch {s : State} (hwf : Memory.wf s.cfg s.mem = true) (w : Nat) :
    (s.withFetchWord 16 w).fetch = BitVec.ofNat 16 w := by
  obtain ⟨hhi, hlo⟩ := Memory.read_writeList_pair hwf s.fetchPc_range.2
  calc (s.withFetchWord 16 w).fetch
    _ = wordOfBytes (wordHi (BitVec.ofNat 16 (w % 2 ^ 16))) (wordLo (BitVec.ofNat 16 (w % 2 ^ 16))) :=
      congrArg₂ wordOfBytes hhi hlo
    _ = BitVec.ofNat 16 (w % 2 ^ 16) := wordOfBytes_hi_lo _
    _ = BitVec.ofNat 16 w := by apply BitVec.eq_of_toNat_eq; simp

/-- Settles O13: the placed word is fetched next, and it decodes to its instruction. -/
theorem placedWordRunsNext : Obligations.PlacedWordRunsNext := by
  intro s w i hwf hdec
  rw [step_canFetch (stepDue_of_nil rfl) (.inl rfl) (withFetchWord_canFetch s 16 w), withFetchWord_fetch hwf]
  exact execWord_some ((decodeTableWord_eq w).symm.trans hdec)

end Sys2Proof.Machine
end

section
/-! SUPPORT. Frames, said once: they compose, and each operation that control flow is written with leaves all but its own
elements unchanged (10_state.md R33, R34; 41_control_flow.md). -/

namespace Sys2Proof.Machine

/-! ### Elements and frames -/

theorem Element.same_refl (el : Element) (s : State) : el.same s s := by
  cases el with
  | memory => exact fun _ => rfl
  | stack | faultRecord | setup => exact ⟨rfl, rfl⟩
  | _ => exact rfl

theorem Element.same_trans {el : Element} {s t u : State} (h : el.same s t) (h' : el.same t u) : el.same s u := by
  cases el with
  | memory => exact fun a => (h' a).trans (h a)
  | stack | faultRecord | setup => exact ⟨h'.1.trans h.1, h'.2.trans h.2⟩
  | _ => exact Eq.trans h' h

section
variable {regs : List RegIdx} {els : List Element} {s t u : State}

theorem Frame.refl (s : State) : Frame regs els s s := ⟨fun _ _ => rfl, fun el _ => el.same_refl s⟩

theorem Frame.trans (h : Frame regs els s t) (h' : Frame regs els t u) : Frame regs els s u :=
  ⟨fun k hk => (h'.1 k hk).trans (h.1 k hk), fun el hel => Element.same_trans (h.2 el hel) (h'.2 el hel)⟩

/-- PC and status belong to no element, so that a `goto` keeps every frame and completes an instruction. -/
theorem Frame.completes_goto (h : Frame regs els s t) (w : Word) : Completes w regs els s (t.goto w) :=
  ⟨rfl, rfl, h.1, fun el hel => by cases el <;> exact h.2 _ hel⟩

end

/-! ### What each operation leaves unchanged -/

section
variable (s : State)

theorem frame_signal (e : CoreError) : Frame [] [.errorLog, .errorOut] s (s.signal e) := by
  refine ⟨fun _ _ => rfl, fun el hel => ?_⟩
  cases el with
  | errorLog | errorOut => simp at hel
  | _ => simp [Element.same]

theorem frame_goIdle (w : Word) : Frame [] [.selfJumpOut] s (s.goIdle w) := by
  refine ⟨fun _ _ => rfl, fun el hel => ?_⟩
  cases el with
  | selfJumpOut => simp at hel
  | _ => simp [Element.same]

theorem frame_clearOutputs : Frame [] [.errorOut, .selfJumpOut] s s.clearOutputs := by
  refine ⟨fun _ _ => rfl, fun el hel => ?_⟩
  cases el with
  | errorOut | selfJumpOut => simp at hel
  | _ => simp [Element.same]

theorem frame_stack (stk : Vector Word 16) (sp : Fin 17) : Frame [] [.stack] s { s with stk := stk, sp := sp } := by
  refine ⟨fun _ _ => rfl, fun el hel => ?_⟩
  cases el with
  | stack => simp at hel
  | _ => simp [Element.same, State.readByte]

end

/-! ### The call stack (10_state.md R33, R34) -/

/-- `Push` with room for an entry (10_state.md R33). -/
theorem State.push_effect {s : State} (w : Word) (h : s.sp.val < 16) :
    ∃ u, s.push w = some u ∧ u.sp.val = s.sp.val + 1
      ∧ (∀ k : Fin 16, u.stk[k] = if k.val = s.sp.val then w else s.stk[k]) ∧ Frame [] [.stack] s u :=
  ⟨_, State.push_room h, rfl, fun k => by simp [Vector.getElem_set, eq_comm], frame_stack s _ _⟩

/-- `Pop` with an entry held: the top entry is read, and no entry is erased (10_state.md R34). -/
theorem State.pop_effect {s : State} {k : Fin 16} (h : s.sp.val = k.val + 1) :
    s.topOfStack = s.stk[k] ∧ s.pop.sp.val = k.val ∧ s.pop.stk = s.stk ∧ Frame [] [.stack] s s.pop := by
  obtain ⟨hpop, htop⟩ := State.pop_held (s := s) (by omega)
  rw [hpop, htop]
  exact ⟨by simp [h], by simp [h], rfl, frame_stack s _ _⟩

/-! ### A jump target at the next fetch (40_engine_cycle.md R91, R92) -/

theorem stepFaults_of_checkFetch {s : State} {e : CoreError} (he : Engaged s) (hcheck : s.checkFetch = some e)
    (hfatal : e.isFatal s.cfg = true) : StepFaults e s := by
  obtain ⟨_, hout, _, hpcRecord, hstatus, hpc, _⟩ := State.raise_faults (s := s.clearOutputs) hfatal
  refine ⟨s.clearOutputs.raise e, ?_, hstatus, hout, hpcRecord, hpc⟩
  have hclear : s.clearOutputs.checkFetch = some e := hcheck
  rw [cpuStep_engaged he, fetchAndExec, hclear]

theorem stepFaults_of_odd {s : State} (he : Engaged s) (hodd : s.pc.toNat % 2 = 1) : StepFaults (.misalignedFetch s.pc) s :=
  stepFaults_of_checkFetch he (State.checkFetch_odd hodd) rfl

theorem stepFaults_of_past {s : State} (he : Engaged s) (heven : s.pc.toNat % 2 = 0)
    (hpast : s.pc.toNat + 2 > 0x200 + s.romLen.val) : StepFaults (.fetchOutOfBounds s.pc) s :=
  stepFaults_of_checkFetch he (State.checkFetch_past heven hpast) rfl

/-! ### Skips (10_state.md R26) -/

theorem completes_skipIf (s : State) (c : Bool) : Completes (if c then s.pc + 4 else s.pc + 2) [] [] s (s.skipIf c) :=
  (Frame.refl s).completes_goto _

theorem completes_skipIf_beq (s : State) (a b : Byte) :
    Completes (if a = b then s.pc + 4 else s.pc + 2) [] [] s (s.skipIf (a == b)) := by
  simpa using completes_skipIf s (a == b)

theorem completes_skipIf_bne (s : State) (a b : Byte) :
    Completes (if a = b then s.pc + 2 else s.pc + 4) [] [] s (s.skipIf (a != b)) := by
  simpa [ite_not] using completes_skipIf s (a != b)

end Sys2Proof.Machine
end

section
/-! PROOFS. The statements about control transfer (41_control_flow.md). -/

namespace Sys2Proof.Machine

/-! ### Jumps (41_control_flow.md R110, R116) -/

theorem exec_jp_of_ne {nnn : BitVec 12} {s : State} (h : nnn.toNat ≠ s.pc.toNat) :
    exec (.jp nnn) s = .next (s.goto (zextNnn nnn)) :=
  if_neg fun htarget => h (zextNnn_eq_iff.mp htarget)

/-- Both timers of an engine that is not FAULTED fall by one and stop at zero (60_exceptions.md R210). -/
theorem State.timerTick_toNat {s : State} (h : s.status ≠ .faulted) :
    s.timerTick.dt.toNat = s.dt.toNat - 1 ∧ s.timerTick.st.toNat = s.st.toNat - 1 := by
  rw [State.timerTick_counting h]
  exact ⟨decTimer_toNat s.dt, decTimer_toNat s.st⟩

/-- Settles O23: a jump elsewhere only writes PC, which the next fetch checks; a self-jump rests. -/
theorem jumpWritesItsTargetAndASelfJumpIdles : Obligations.JumpWritesItsTargetAndASelfJumpIdles := by
  refine ⟨selects_jp, fun nnn s => ⟨fun hne => ?_, fun hself => ?_⟩⟩
  · have htarget : (s.goto (zextNnn nnn)).pc.toNat = nnn.toNat := zextNnn_toNat nnn
    refine ⟨s.goto (zextNnn nnn), exec_jp_of_ne hne, htarget, (Frame.refl s).completes_goto _, fun hodd => ?_,
      fun heven hpast => ?_⟩
    · exact stepFaults_of_odd (.inl rfl) (by rwa [htarget])
    · exact stepFaults_of_past (.inl rfl) (by rwa [htarget]) (by rwa [htarget])
  · have hidle : (s.goIdle s.pc).status = .idle := rfl
    refine ⟨s.goIdle s.pc, exec_of_isSelfJump ⟨nnn, rfl, hself⟩, rfl, hidle, rfl, frame_goIdle s s.pc, ?_,
      State.timerTick_toNat (by simp)⟩
    exact ⟨_, cpuStep_resting (not_engaged_of_resting (.inl hidle)), rfl, hidle, frame_clearOutputs _⟩

/-- Settles O29: the sum is written whatever it is, and the next fetch checks it. -/
theorem jumpWithOffsetAddsV0Exactly : Obligations.JumpWithOffsetAddsV0Exactly :=
  ⟨selects_jpV0Addr, fun nnn s => ⟨s.goto (s.offsetTarget nnn), rfl, s.offsetTarget_toNat nnn,
    (Frame.refl s).completes_goto _, stepFaults_of_odd (.inl rfl), stepFaults_of_past (.inl rfl)⟩⟩

/-! ### Call and return (41_control_flow.md R111, R117) -/

theorem exec_call_of_push {nnn : BitVec 12} {s u : State} (h : s.push (s.pc + 2) = some u) :
    exec (.call nnn) s = .next (u.goto (zextNnn nnn)) := by
  simp only [exec, execCall, h]

theorem exec_call_full {nnn : BitVec 12} {s : State} (h : s.sp.val = 16) :
    exec (.call nnn) s = .next (s.raise (.stackOverflow s.pc)) := by
  simp only [exec, execCall, State.push_full h]

/-- Settles O24: the room on the stack decides between the push and the rejection. -/
theorem callPushesTheReturnAddressOrIsRejected : Obligations.CallPushesTheReturnAddressOrIsRejected := by
  refine ⟨selects_call, fun nnn s => ⟨fun hroom => ?_, fun hfull => ?_⟩⟩
  · obtain ⟨u, hpush, hsp, hstk, hframe⟩ := State.push_effect (s.pc + 2) hroom
    exact ⟨u.goto (zextNnn nnn), exec_call_of_push hpush, hsp, hstk, zextNnn_toNat nnn, hframe.completes_goto _⟩
  · exact ⟨_, exec_call_full hfull, State.raise_rejected rfl⟩

/-- Settles O25: `RET` goes to the entry popped, and on an empty stack to the sentinel with the underflow signalled. -/
theorem returnPopsOrSignalsUnderflow : Obligations.ReturnPopsOrSignalsUnderflow := by
  refine ⟨selects_ret, fun s => ⟨fun k hheld => ?_, fun hempty => ?_⟩⟩
  · obtain ⟨htop, hsp, hstk, hframe⟩ := State.pop_effect hheld
    exact ⟨s.pop.goto s.topOfStack, rfl, hsp, hstk, htop ▸ hframe.completes_goto _⟩
  · obtain ⟨hpop, htop⟩ := State.pop_empty hempty
    refine ⟨(s.signal (.stackUnderflow s.pc)).goto 0, ?_, rfl, rfl, (frame_signal s _).completes_goto _⟩
    rw [← hpop, ← htop]
    rfl

/-- Settles O26: the entry that `CALL` pushed is the one that `RET` pops, and no other entry changed. -/
theorem callThenReturnComesBack : Obligations.CallThenReturnComesBack := by
  intro nnn s hroom
  obtain ⟨t, hcall, hspCall, hstkCall, _, _, _, hframeCall⟩ :=
    (callPushesTheReturnAddressOrIsRejected.2 nnn s).1 hroom
  obtain ⟨u, hret, hspRet, hstkRet, hpc, hstatus, hframeRet⟩ :=
    (returnPopsOrSignalsUnderflow.2 t).1 ⟨s.sp.val, hroom⟩ hspCall
  refine ⟨t, u, hcall, hret, Fin.ext hspRet, fun k hk => ?_, ?_, hstatus, hframeCall.trans hframeRet⟩
  · rw [hstkRet, hstkCall k, if_neg hk.ne]
  · rw [hpc, hstkCall, if_pos rfl]

/-! ### Skips (41_control_flow.md R112 to R115) -/

/-- Settles O27: each skip is a `skipIf` on its test. -/
theorem skipsAgainstAnImmediate : Obligations.SkipsAgainstAnImmediate :=
  ⟨selects_seVxByte, selects_sneVxByte, fun x kk s =>
    ⟨⟨_, rfl, completes_skipIf_beq s (s.readV x) kk⟩, ⟨_, rfl, completes_skipIf_bne s (s.readV x) kk⟩⟩⟩

/-- Settles O28: as against an immediate; the decoder refuses a low nibble that is not 0. -/
theorem skipsBetweenRegisters : Obligations.SkipsBetweenRegisters := by
  refine ⟨selects_seVxVy, selects_sneVxVy, fun w hop hn => ?_, fun x y s => ⟨?_, ?_⟩⟩
  · rcases hop with hop | hop
    · rw [decode_op5 hop, if_neg hn]
    · rw [decode_op9 hop, if_neg hn]
  · exact ⟨_, rfl, completes_skipIf_beq s (s.readV x) (s.readV y)⟩
  · exact ⟨_, rfl, completes_skipIf_bne s (s.readV x) (s.readV y)⟩

end Sys2Proof.Machine
end

section
/-! SUPPORT. What writing a register, a register and the flag, or a drawn register does and leaves unchanged
(10_state.md R22; 42_alu.md R130), and the results and flags of register arithmetic as numbers. -/

namespace Sys2Proof.Machine

/-! ### Frames of the register writes -/

section
variable {regs : List RegIdx} {els : List Element} {s t : State}

theorem Frame.mono {regs' : List RegIdx} {els' : List Element} (h : Frame regs els s t) (hregs : regs ⊆ regs')
    (hels : els ⊆ els') : Frame regs' els' s t :=
  ⟨fun k hk => h.1 k fun hmem => hk (hregs hmem), fun el hel => h.2 el fun hmem => hel (hels hmem)⟩

/-- An instruction that left PC alone completes at the next word (10_state.md R26). -/
theorem Frame.completes_advance (h : Frame regs els s t) (hpc : t.pc = s.pc) :
    Completes (s.pc + 2) regs els s t.advance :=
  hpc ▸ h.completes_goto (t.pc + 2)

end

section
variable (s : State) (x : RegIdx)

theorem frame_setV (b : Byte) : Frame [x] [] s (s.setV x b) := by
  refine ⟨fun k hk => ?_, fun el _ => by cases el <;> simp [Element.same]⟩
  rw [State.setV_readV, if_neg (List.ne_of_not_mem_cons hk)]

theorem frame_setResultAndFlag (r f : Byte) : Frame [x, vf] [] s (s.setResultAndFlag x r f) := by
  have hresult : Frame [x, vf] [] s (s.setV x r) := (frame_setV s x r).mono (by simp) (List.nil_subset _)
  have hflag : Frame [x, vf] [] (s.setV x r) ((s.setV x r).setV vf f) :=
    (frame_setV _ vf f).mono (by simp) (List.nil_subset _)
  exact hresult.trans hflag

theorem frame_countDraw : Frame [] [.draws] s s.countDraw := by
  refine ⟨fun _ _ => rfl, fun el hel => ?_⟩
  cases el with
  | draws => simp at hel
  | _ => simp [Element.same]

theorem frame_setRandom (rnd kk : Byte) : Frame [x] [.draws] s (s.setRandom rnd x kk) := by
  have hwrite : Frame [x] [.draws] s (s.setV x (rnd &&& kk)) :=
    (frame_setV s x _).mono (List.Subset.refl _) (List.nil_subset _)
  exact hwrite.trans ((frame_countDraw _).mono (List.nil_subset _) (List.Subset.refl _))

/-! ### Completing with a register written -/

/-- An instruction that writes one register and no flag (42_alu.md R131 to R136). -/
theorem setV_advance_effect (b : Byte) :
    (s.setV x b).advance.readV x = b ∧ Completes (s.pc + 2) [x] [] s (s.setV x b).advance :=
  ⟨by simp, (frame_setV s x b).completes_advance rfl⟩

/-- An instruction that writes its result and then VF: with `x = F` only the flag is seen (10_state.md R22). -/
theorem setResultAndFlag_advance_effect (r f : Byte) :
    (x ≠ vf → (s.setResultAndFlag x r f).advance.readV x = r) ∧ (s.setResultAndFlag x r f).advance.readV vf = f
      ∧ Completes (s.pc + 2) [x, vf] [] s (s.setResultAndFlag x r f).advance :=
  ⟨fun hx => by simp [hx], by simp, (frame_setResultAndFlag s x r f).completes_advance rfl⟩

end

/-! ### Results and flags as numbers -/

section
variable (a b : Byte)

theorem byte_sub_toNat : (a - b).toNat = (a.toNat + 256 - b.toNat) % 256 := by
  have := b.isLt
  rw [BitVec.toNat_sub]
  omega

theorem byte_shiftRight_one_toNat : (a >>> 1).toNat = a.toNat / 2 := by
  rw [BitVec.toNat_ushiftRight, Nat.shiftRight_eq_div_pow, Nat.pow_one]

theorem byte_shiftLeft_one_toNat : (a <<< 1).toNat = a.toNat * 2 % 256 := by
  rw [BitVec.toNat_shiftLeft, Nat.shiftLeft_eq, Nat.pow_one]

theorem carryFlag_eq : carryFlag a b = if a.toNat + b.toNat > 255 then 1 else 0 := by
  simp [carryFlag, flagByte]

theorem noBorrowFlag_eq : noBorrowFlag a b = if a.toNat ≥ b.toNat then 1 else 0 := by
  simp [noBorrowFlag, flagByte]

end

end Sys2Proof.Machine
end

section
/-! PROOFS. The statements about register arithmetic, logic, shifts and random (42_alu.md). -/

namespace Sys2Proof.Machine

/-! ### Without a flag (42_alu.md R131 to R136, R142) -/

/-- Settles O30: both are one register write, of the immediate or of the sum. -/
theorem loadAndAddImmediate : Obligations.LoadAndAddImmediate := by
  refine ⟨selects_ldVxByte, selects_addVxByte, fun x kk s => ⟨⟨_, rfl, setV_advance_effect s x kk⟩, ?_⟩⟩
  obtain ⟨hsum, hcompletes⟩ := setV_advance_effect s x (s.readV x + kk)
  exact ⟨_, rfl, (congrArg BitVec.toNat hsum).trans (BitVec.toNat_add _ _), hcompletes⟩

/-- Settles O31: one register write each, whose value is read bit by bit. -/
theorem moveAndBitwiseWriteNoFlag : Obligations.MoveAndBitwiseWriteNoFlag := by
  refine ⟨selects_ldVxVy, selects_orVxVy, selects_andVxVy, selects_xorVxVy, fun x y s => ⟨?_, ?_, ?_, ?_⟩⟩
  · exact ⟨_, rfl, setV_advance_effect s x (s.readV y)⟩
  · obtain ⟨hor, hcompletes⟩ := setV_advance_effect s x (s.readV x ||| s.readV y)
    exact ⟨_, rfl, hcompletes, fun _ => by rw [hor, BitVec.getLsbD_or]⟩
  · obtain ⟨hand, hcompletes⟩ := setV_advance_effect s x (s.readV x &&& s.readV y)
    exact ⟨_, rfl, hcompletes, fun _ => by rw [hand, BitVec.getLsbD_and]⟩
  · obtain ⟨hxor, hcompletes⟩ := setV_advance_effect s x (s.readV x ^^^ s.readV y)
    exact ⟨_, rfl, hcompletes, fun _ => by rw [hxor, BitVec.getLsbD_xor]⟩

/-- Settles O35: the register gets the masked draw, whatever it is, and the draw is counted. -/
theorem randomMasksItsDraw : Obligations.RandomMasksItsDraw := by
  refine ⟨selects_rndVxByte, fun x kk s => ?_⟩
  have hmasked : (s.setRandom (Config.rndDraw s.draws) x kk).advance.readV x = Config.rndDraw s.draws &&& kk := by
    simp [State.setRandom]
  refine ⟨_, rfl, hmasked, fun hzero => ?_, rfl, (frame_setRandom s x _ kk).completes_advance rfl⟩
  rw [hmasked, hzero]
  exact BitVec.and_zero

/-! ### With the flag written last (42_alu.md R137 to R141) -/

/-- Settles O32: the sum modulo 256 and its carry. -/
theorem addWritesSumThenCarry : Obligations.AddWritesSumThenCarry := by
  refine ⟨selects_addVxVy, fun x y s => ?_⟩
  obtain ⟨hsum, hflag, hcompletes⟩ :=
    setResultAndFlag_advance_effect s x (s.readV x + s.readV y) (carryFlag (s.readV x) (s.readV y))
  exact ⟨_, rfl, fun hx => (congrArg BitVec.toNat (hsum hx)).trans (BitVec.toNat_add _ _),
    hflag.trans (carryFlag_eq _ _), hcompletes⟩

/-- `V[x] <- a - b` and then VF the no-borrow, the effect that SUB and SUBN share (42_alu.md R138, R140). -/
theorem subtract_advance_effect (s : State) (x : RegIdx) (a b : Byte) :
    (x ≠ 0xF → ((s.setResultAndFlag x (a - b) (noBorrowFlag a b)).advance.readV x).toNat
        = (a.toNat + 256 - b.toNat) % 256)
      ∧ (s.setResultAndFlag x (a - b) (noBorrowFlag a b)).advance.readV 0xF = (if a.toNat ≥ b.toNat then 1 else 0)
      ∧ Completes (s.pc + 2) [x, 0xF] [] s (s.setResultAndFlag x (a - b) (noBorrowFlag a b)).advance := by
  obtain ⟨hdiff, hflag, hcompletes⟩ := setResultAndFlag_advance_effect s x (a - b) (noBorrowFlag a b)
  exact ⟨fun hx => by rw [hdiff hx, byte_sub_toNat], hflag.trans (noBorrowFlag_eq a b), hcompletes⟩

/-- Settles O33: SUB and SUBN are one subtraction with its operands in either order. -/
theorem subtractWritesDifferenceThenNoBorrow : Obligations.SubtractWritesDifferenceThenNoBorrow :=
  ⟨selects_subVxVy, selects_subnVxVy, fun x y s =>
    ⟨⟨_, rfl, subtract_advance_effect s x (s.readV x) (s.readV y)⟩,
      ⟨_, rfl, subtract_advance_effect s x (s.readV y) (s.readV x)⟩⟩⟩

/-- Settles O34: the instructions hold no `y`, and the flag is the bit that the halving or doubling drops. -/
theorem shiftWritesResultThenBitShiftedOut : Obligations.ShiftWritesResultThenBitShiftedOut := by
  refine ⟨selects_shrVx, selects_shlVx, fun x s => ⟨?_, ?_⟩⟩
  · obtain ⟨hhalf, hflag, hcompletes⟩ :=
      setResultAndFlag_advance_effect s x (s.readV x >>> 1) (shiftedOutRight (s.readV x))
    exact ⟨_, rfl, fun hx => by rw [hhalf hx, byte_shiftRight_one_toNat],
      (congrArg BitVec.toNat hflag).trans (shiftedOutRight_toNat _), hcompletes⟩
  · obtain ⟨hdouble, hflag, hcompletes⟩ :=
      setResultAndFlag_advance_effect s x (s.readV x <<< 1) (shiftedOutLeft (s.readV x))
    exact ⟨_, rfl, fun hx => by rw [hdouble hx, byte_shiftLeft_one_toNat],
      (congrArg BitVec.toNat hflag).trans (shiftedOutLeft_toNat _), hcompletes⟩

end Sys2Proof.Machine
end

section
/-! SUPPORT. What writing I, a store and a register-range load do and leave unchanged, and how the checks of a transfer
decide between its rejection and its completion (20_memory.md R57, R58; 43_index_memory.md). -/

namespace Sys2Proof.Machine

/-! ### Frames of the writes to I and to memory -/

section
variable (s : State)

theorem frame_setI (w : Word) : Frame [] [.index] s (s.setI w) := by
  refine ⟨fun _ _ => rfl, fun el hel => ?_⟩
  cases el with
  | index => simp at hel
  | _ => simp [Element.same]

theorem frame_writeBytes (a : Nat) (bs : List Byte) : Frame [] [.memory] s (s.writeBytes a bs) := by
  refine ⟨fun _ _ => rfl, fun el hel => ?_⟩
  cases el with
  | memory => simp at hel
  | _ => simp [Element.same]

/-- A register-range load that completes: V0..Vx loaded, no other register written and no element touched
(43_index_memory.md R155). -/
theorem loadRegs_advance_effect (x : RegIdx) (f : Nat → Byte) :
    (∀ k : RegIdx, (s.loadRegs x f).advance.readV k = if k.toNat ≤ x.toNat then f k.toNat else s.readV k)
      ∧ (s.loadRegs x f).advance.pc = s.pc + 2 ∧ (s.loadRegs x f).advance.status = .running
      ∧ ∀ el : Element, el.same s (s.loadRegs x f).advance :=
  ⟨fun k => by rw [State.advance_readV, State.loadRegs_readV], by simp, by simp,
    fun el => by cases el <;> simp [Element.same]⟩

/-- I and then one register, as `FX1E` writes I and VF (43_index_memory.md R151). -/
theorem frame_setI_setV (w : Word) (x : RegIdx) (b : Byte) : Frame [x] [.index] s ((s.setI w).setV x b) := by
  have hindex : Frame [x] [.index] s (s.setI w) := (frame_setI s w).mono (List.nil_subset _) (List.Subset.refl _)
  have hreg : Frame [x] [.index] (s.setI w) ((s.setI w).setV x b) :=
    (frame_setV _ x b).mono (List.Subset.refl _) (List.nil_subset _)
  exact hindex.trans hreg

end

theorem indexOverflow_eq (sum : Nat) : indexOverflow sum = if sum > 0x0FFF then 1 else 0 := by
  simp [indexOverflow, flagByte]

/-! ### The checks of a transfer of `n + 1` bytes (20_memory.md R57, R58) -/

section
variable {s : State} {n f : Nat}

theorem State.checkRead_past (h : s.effAddr n > 0xFFF) : s.checkRead (n + 1) = some (.boundsViolation 0x1000) :=
  if_pos ⟨n.succ_pos, h⟩

theorem State.checkRead_within (h : s.effAddr n ≤ 0xFFF) : s.checkRead (n + 1) = none :=
  State.checkRead_none_iff.mpr (.inr h)

theorem State.checkWrite_past (h : s.effAddr n > 0xFFF) : s.checkWrite (n + 1) = some (.boundsViolation 0x1000) := by
  rw [State.checkWrite, State.checkRead_past h]

/-- The lowest address of the range that lies in the font region is the first protected one. -/
theorem firstProtected_eq_some {c : Config} {a : Nat} (hlo : a ≤ f) (hhi : f < a + n) (hfont : inFont c f = true)
    (hfirst : ∀ j, a ≤ j → j < f → inFont c j = false) : firstProtected c a n = some f := by
  cases hp : firstProtected c a n with
  | none => cases (firstProtected_none_iff.mp hp f hlo hhi).symm.trans hfont
  | some g =>
    obtain ⟨hglo, _, hgfont, hgfirst⟩ := firstProtected_some hp
    rcases Nat.lt_trichotomy f g with hfg | rfl | hgf
    · cases (hgfirst f hlo hfg).symm.trans hfont
    · rfl
    · cases (hfirst g hglo hgf).symm.trans hgfont

theorem State.checkWrite_font (hin : s.effAddr n ≤ 0xFFF) (hlo : s.effAddr 0 ≤ f) (hhi : f < s.effAddr (n + 1))
    (hfont : inFont s.cfg f = true) (hfirst : ∀ a, s.effAddr 0 ≤ a → a < f → inFont s.cfg a = false) :
    s.checkWrite (n + 1) = some (.fontWriteProtect f) := by
  have hprotected : firstProtected s.cfg (s.effAddr 0) (n + 1) = some f := firstProtected_eq_some hlo hhi hfont hfirst
  rw [State.checkWrite, State.checkRead_within hin, hprotected]
  rfl

theorem State.checkWrite_clear (hin : s.effAddr n ≤ 0xFFF)
    (hclear : ∀ a, s.effAddr 0 ≤ a → a < s.effAddr (n + 1) → inFont s.cfg a = false) : s.checkWrite (n + 1) = none :=
  State.checkWrite_none_iff.mpr ⟨.inr hin, hclear⟩

end

/-! ### What a check decides -/

/-- An instruction whose check answered `check`: rejected with the error, or completed in `t`. -/
def State.checked (s t : State) : Option CoreError → Host.Outcome State Fault Refusal
  | some e => .next (s.raise e)
  | none => .next t

theorem exec_ldBVx (x : RegIdx) (s : State) : exec (.ldBVx x) s =
    s.checked (s.writeBytes (s.effAddr 0) (bcdDigits (s.readV x))).advance (s.checkWrite 3) := rfl

theorem exec_ldMemVx (x : RegIdx) (s : State) : exec (.ldMemVx x) s =
    s.checked (s.writeBytes (s.effAddr 0) (s.regRange x)).advance (s.checkWrite (x.toNat + 1)) := rfl

theorem exec_ldVxMem (x : RegIdx) (s : State) : exec (.ldVxMem x) s =
    s.checked (s.loadRegs x (fun k => s.readByte (s.effAddr k))).advance (s.checkRead (x.toNat + 1)) := rfl

/-- A check that answers a non-fatal error rejects the instruction whole (60_exceptions.md R202). -/
theorem State.checked_rejects {s t : State} {check : Option CoreError} {e : CoreError} (hcheck : check = some e)
    (hnonFatal : e.isFatal s.cfg = false) : ∃ u, s.checked t check = .next u ∧ Rejected e s u :=
  ⟨s.raise e, hcheck ▸ rfl, State.raise_rejected hnonFatal⟩

theorem State.checked_completes {s t : State} {check : Option CoreError} (hcheck : check = none) :
    s.checked t check = .next t := hcheck ▸ rfl

/-! ### A store from I up (20_memory.md R56, R59) -/

/-- A completed store within memory: each byte lies at its address, and every other address reads as before. -/
theorem store_advance_effect {s : State} {bs : List Byte} (hwf : Memory.wf s.cfg s.mem = true)
    (hend : s.effAddr bs.length ≤ 0x1000) :
    (∀ k b, bs[k]? = some b → (s.writeBytes (s.effAddr 0) bs).advance.readByte (s.effAddr k) = b)
      ∧ (∀ a, ¬ (s.effAddr 0 ≤ a ∧ a < s.effAddr bs.length) →
        (s.writeBytes (s.effAddr 0) bs).advance.readByte a = s.readByte a)
      ∧ Completes (s.pc + 2) [] [.memory] s (s.writeBytes (s.effAddr 0) bs).advance := by
  have hread := fun a => s.writeBytes_readByte (s.effAddr 0) bs a hwf hend
  refine ⟨fun k b hb => ?_, fun a hout => ?_, (frame_writeBytes s _ bs).completes_advance rfl⟩
  · obtain ⟨hk, _⟩ := List.getElem?_eq_some_iff.mp hb
    have hoffset : s.effAddr k - s.effAddr 0 = k := Nat.add_sub_cancel_left _ _
    have hrange : s.effAddr 0 ≤ s.effAddr k ∧ s.effAddr k < s.effAddr 0 + bs.length :=
      ⟨Nat.add_le_add_left k.zero_le _, Nat.add_lt_add_left hk _⟩
    rw [State.advance_readByte, hread, if_pos hrange, hoffset, hb]
    rfl
  · rw [State.advance_readByte, hread]
    exact if_neg hout

end Sys2Proof.Machine
end

section
/-! PROOFS. The statements about the index register and memory transfers (43_index_memory.md). -/

namespace Sys2Proof.Machine

/-! ### The index register (43_index_memory.md R150 to R152) -/

/-- Settles O36: one write of I. -/
theorem loadIndexWritesTheAddress : Obligations.LoadIndexWritesTheAddress :=
  ⟨selects_ldIAddr, fun nnn s => ⟨_, rfl, zextNnn_toNat nnn, (frame_setI s _).completes_advance rfl⟩⟩

/-- Settles O37: the addend is read before either write, so that with `x = F` it is the old VF. -/
theorem addToIndexWrapsAndFlagsOverflow : Obligations.AddToIndexWrapsAndFlagsOverflow := by
  refine ⟨selects_addIVx, fun x s => ⟨_, rfl, indexResult_toNat _, ?_, (frame_setI_setV s _ vf _).completes_advance rfl⟩⟩
  exact (setV_advance_effect _ vf _).1.trans (indexOverflow_eq _)

/-- Settles O38: a legal font base keeps the glyph's address within 16 bits. -/
theorem loadFontWritesTheGlyphAddress : Obligations.LoadFontWritesTheGlyphAddress := by
  refine ⟨selects_ldFVx, fun x s hcfg => ?_⟩
  have haddr := glyphAddr_toNat (of_decide_eq_true hcfg) (s.readV x)
  exact ⟨_, rfl, haddr, haddr.trans_le (by omega), (frame_setI s _).completes_advance rfl⟩

/-! ### Transfers (43_index_memory.md R153 to R155) -/

/-- Settles O39: the check of three bytes decides, and a digit is below 10. -/
theorem bcdStoresThreeDigitsOrIsRejected : Obligations.BcdStoresThreeDigitsOrIsRejected := by
  refine ⟨selects_ldBVx, fun x s => ?_⟩
  rw [exec_ldBVx]
  have hlast : s.effAddr 2 = s.i.toNat + 2 := rfl
  refine ⟨fun hpast => ?_, fun f hin hlo hhi hfont hfirst => ?_, fun hwf hin hclear => ?_⟩
  · exact State.checked_rejects (State.checkWrite_past (by omega)) rfl
  · exact State.checked_rejects (State.checkWrite_font (by omega) hlo hhi hfont hfirst) rfl
  · obtain ⟨hdigit, hother, hcompletes⟩ :=
      store_advance_effect (bs := bcdDigits (s.readV x)) hwf (Nat.add_le_add_right hin 3)
    have hbyte := (s.readV x).isLt
    refine ⟨_, State.checked_completes (State.checkWrite_clear (by omega) hclear), ?_, ?_, ?_, hother, hcompletes⟩
    · rw [hdigit 0 _ rfl, BitVec.toNat_ofNat, Nat.mod_eq_of_lt (by omega)]
    · rw [hdigit 1 _ rfl, BitVec.toNat_ofNat, Nat.mod_eq_of_lt (by omega)]
    · rw [hdigit 2 _ rfl, BitVec.toNat_ofNat, Nat.mod_eq_of_lt (by omega)]

/-- Settles O40: the check of `x + 1` bytes decides, and byte `k` stored is V[k]. -/
theorem storeRangeWritesV0ToVxOrIsRejected : Obligations.StoreRangeWritesV0ToVxOrIsRejected := by
  refine ⟨selects_ldMemVx, fun x s => ?_⟩
  rw [exec_ldMemVx]
  have hend : s.effAddr (x.toNat + 1) = s.effAddr x.toNat + 1 := rfl
  refine ⟨fun hpast => ?_, fun f hin hlo hhi hfont hfirst => ?_, fun hwf hin hclear => ?_⟩
  · exact State.checked_rejects (State.checkWrite_past hpast) rfl
  · exact State.checked_rejects (State.checkWrite_font hin hlo (Nat.lt_succ_of_le hhi) hfont hfirst) rfl
  · have hcheck : s.checkWrite (x.toNat + 1) = none :=
      State.checkWrite_clear hin fun a hlo hhi => hclear a hlo (Nat.le_of_lt_succ hhi)
    obtain ⟨hstored, hother, hcompletes⟩ :=
      store_advance_effect (bs := s.regRange x) hwf (by rw [State.regRange_length]; omega)
    rw [State.regRange_length] at hother
    exact ⟨_, State.checked_completes hcheck, fun k hk => hstored _ _ (s.regRange_getElem x k hk),
      fun a hout => hother a fun h => hout ⟨h.1, Nat.le_of_lt_succ h.2⟩, hcompletes⟩

/-- Settles O41: only the bound is checked, since a load may read the font. -/
theorem loadRangeReadsV0ToVxOrIsRejected : Obligations.LoadRangeReadsV0ToVxOrIsRejected := by
  refine ⟨selects_ldVxMem, fun x s => ?_⟩
  rw [exec_ldVxMem]
  refine ⟨fun hpast => State.checked_rejects (State.checkRead_past hpast) rfl, fun hin => ?_⟩
  exact ⟨_, State.checked_completes (State.checkRead_within hin), loadRegs_advance_effect s x _⟩

end Sys2Proof.Machine
end

section
/-! SUPPORT. What writing the frame buffer and a completed draw do and leave unchanged, what the toggled pixels say
of the collision flag, and what toggling the same pixels again does (44_display.md R170, R173). -/

namespace Sys2Proof.Machine

/-! ### Frames of the writes to FB -/

section
variable (s : State) (f : FrameBuffer)

theorem frame_setFb : Frame [] [.display] s (s.setFb f) := by
  refine ⟨fun _ _ => rfl, fun el hel => ?_⟩
  cases el with
  | display => simp at hel
  | _ => simp [Element.same]

/-- FB and then one register, as `DXYN` writes FB and VF (44_display.md R171). -/
theorem frame_setFb_setV (x : RegIdx) (b : Byte) : Frame [x] [.display] s ((s.setFb f).setV x b) := by
  have hdisplay : Frame [x] [.display] s (s.setFb f) := (frame_setFb s f).mono (List.nil_subset _) (List.Subset.refl _)
  have hreg : Frame [x] [.display] (s.setFb f) ((s.setFb f).setV x b) :=
    (frame_setV _ x b).mono (List.Subset.refl _) (List.nil_subset _)
  exact hdisplay.trans hreg

end

/-! ### Toggled pixels (44_display.md R170, R173) -/

section
variable {P : Fin 64 → Fin 32 → Prop} {f : FrameBuffer} {acc : FrameBuffer × Bool}

/-- The collision flag is 1 if a toggled pixel was set before, and 0 otherwise. -/
theorem Toggled.flagByte_collision (h : Toggled P f acc) :
    ((∃ x y, P x y ∧ pixelAt f x y = true) → flagByte acc.2 = 1)
      ∧ ((∀ x y, P x y → pixelAt f x y = false) → flagByte acc.2 = 0) := by
  obtain ⟨_, _, hcollision⟩ := h
  refine ⟨fun hhit => ?_, fun hmiss => ?_⟩
  · rw [hcollision.mpr hhit, flagByte_true]
  · have hclear : acc.2 = false := by
      refine Bool.eq_false_iff.mpr fun hset => ?_
      obtain ⟨x, y, hp, hpixel⟩ := hcollision.mp hset
      cases (hmiss x y hp).symm.trans hpixel
    rw [hclear, flagByte_false]

end

/-- What a sprite toggles depends on I and on memory only (44_display.md R170). -/
theorem togglesPixel_congr {s t : State} (hi : t.i = s.i) (hmem : ∀ a, t.readByte a = s.readByte a) (ox oy : Byte)
    (n : Nat) : togglesPixel t ox oy n = togglesPixel s ox oy n := by
  have hbit : spriteBit t = spriteBit s := by
    funext r c
    rw [spriteBit, spriteBit, hi, hmem]
  unfold togglesPixel
  rw [hbit]

/-! ### A draw that completes (44_display.md R171) -/

/-- The state a draw completes in: the sprite at the origin V[x], V[y], then VF. -/
def State.drawn (s : State) (x y : RegIdx) (n : BitVec 4) : State :=
  ((s.setFb (s.drawSprite (s.readV x) (s.readV y) n.toNat).1).setV vf
    (flagByte (s.drawSprite (s.readV x) (s.readV y) n.toNat).2)).advance

theorem exec_drw (x y : RegIdx) (n : BitVec 4) (s : State) :
    exec (.drw x y n) s = s.checked (s.drawn x y n) (s.checkRead n.toNat) := rfl

theorem State.drawn_effect (s : State) (x y : RegIdx) (n : BitVec 4) :
    (s.drawn x y n).readV vf = flagByte (s.drawSprite (s.readV x) (s.readV y) n.toNat).2
      ∧ Completes (s.pc + 2) [vf] [.display] s (s.drawn x y n) :=
  ⟨by simp [State.drawn], (frame_setFb_setV s _ vf _).completes_advance rfl⟩

end Sys2Proof.Machine
end

section
/-! PROOFS. The statements about the display (44_display.md). -/

namespace Sys2Proof.Machine

/-- Settles O43: the check of `n` bytes decides, and the sprite toggles its pixels from the old registers. -/
theorem drawTogglesItsPixelsAndReportsCollision : Obligations.DrawTogglesItsPixelsAndReportsCollision := by
  refine ⟨selects_drw, fun x y n s => ?_⟩
  rw [exec_drw]
  refine ⟨fun hpos hpast => State.checked_rejects (if_pos ⟨hpos, hpast⟩) rfl, fun hin => ?_⟩
  have hdrawn := s.drawSprite_toggles (s.readV x) (s.readV y) n.isLt
  obtain ⟨hhit, hmiss⟩ := hdrawn.flagByte_collision
  obtain ⟨htoggled, huntouched, _⟩ := hdrawn
  obtain ⟨hflag, hcompletes⟩ := s.drawn_effect x y n
  exact ⟨_, State.checked_completes (State.checkRead_none_iff.mpr hin), htoggled, huntouched,
    fun hset => hflag.trans (hhit hset), fun hclear => hflag.trans (hmiss hclear), hcompletes⟩

/-- Settles O44: the second draw toggles the same pixels from the buffer the first one left, and a pixel it
clears is one that the first draw set. -/
theorem drawingTwiceRestoresTheBuffer : Obligations.DrawingTwiceRestoresTheBuffer := by
  intro x y n s t hin hdraw hx hy
  obtain ⟨t', hfirst, htoggled, huntouched, _, _, _, _, _, hsame⟩ :=
    (drawTogglesItsPixelsAndReportsCollision.2 x y n s).2 hin
  obtain rfl : t = t' := Host.Outcome.next.inj (hdraw.symm.trans hfirst)
  have hi : t.i = s.i := hsame .index (by simp)
  have hpixels := togglesPixel_congr hi (hsame .memory (by simp)) (s.readV x) (s.readV y) n.toNat
  obtain ⟨u, hsecond, htoggled', huntouched', hcollides, hmisses, _⟩ :=
    (drawTogglesItsPixelsAndReportsCollision.2 x y n t).2 (by rwa [State.effAddr, hi])
  rw [hx, hy, hpixels] at htoggled' huntouched' hcollides hmisses
  refine ⟨u, hsecond, frameBuffer_ext fun px py => ?_, fun ⟨px, py, hoff, hon⟩ => hcollides ⟨px, py, ?_, hon⟩,
    fun hset => hmisses fun px py hp => ?_⟩
  · by_cases hp : togglesPixel s (s.readV x) (s.readV y) n.toNat px py
    · rw [htoggled' px py hp, htoggled px py hp, Bool.not_not]
    · rw [huntouched' px py hp, huntouched px py hp]
  · by_contra hp
    cases (hon.symm.trans (huntouched px py hp)).trans hoff
  · cases hpixel : pixelAt s.fb px py with
    | false => exact hset px py hpixel
    | true => rw [htoggled px py hp, hpixel, Bool.not_true]

/-- Settles O42: one write of FB, by the buffer whose pixels are all 0. -/
theorem clearZeroesEveryPixel : Obligations.ClearZeroesEveryPixel :=
  ⟨selects_cls, fun s => ⟨_, rfl, pixelAt_clearFb, (frame_setFb s clearFb).completes_advance rfl⟩⟩

end Sys2Proof.Machine
end

section
/-! SUPPORT. What the keypad instructions answer, which keys a draw can choose, and what a timer write and a key taken do
and leave unchanged (45_keypad_timers.md). -/

namespace Sys2Proof.Machine

/-! ### Key skips (45_keypad_timers.md R180, R181) -/

theorem exec_skpVx (x : RegIdx) (s : State) : exec (.skpVx x) s =
    s.checked (s.skipIf (s.keyDown (s.readV x))) (checkKey (s.readV x)) := rfl

theorem exec_sknpVx (x : RegIdx) (s : State) : exec (.sknpVx x) s =
    s.checked (s.skipIf (!s.keyDown (s.readV x))) (checkKey (s.readV x)) := rfl

theorem checkKey_past {b : Byte} (h : b.toNat > 0xF) : checkKey b = some (.keyIndexRange b) := if_pos h

theorem State.keyDown_of_toNat {s : State} {b : Byte} {k : Fin 16} (h : b.toNat = k.val) : s.keyDown b = s.key[k] := by
  simp [State.keyDown, h]

theorem completes_skipIf_not (s : State) (c : Bool) :
    Completes (if c then s.pc + 2 else s.pc + 4) [] [] s (s.skipIf (!c)) := by
  cases c <;> exact (Frame.refl s).completes_goto _

/-! ### The key wait (45_keypad_timers.md R183) -/

/-- Every member of the set is the choice of some draw: its own position (45_keypad_timers.md R183, log 5). -/
theorem exists_draw_of_mem {p : List (Fin 16)} {k : Fin 16} (h : k ∈ p) : ∃ draw, keyChoice draw p = k := by
  obtain ⟨draw, hdraw, rfl⟩ := List.getElem_of_mem h
  exact ⟨draw, by rw [keyChoice, Nat.mod_eq_of_lt hdraw, List.getD_eq_getElem _ _ hdraw]⟩

theorem keyCode_toNat (k : Fin 16) : (keyCode k).toNat = k.val := by
  rw [keyCode, BitVec.toNat_ofNat, Nat.mod_eq_of_lt (by omega)]

section
variable (s : State)

/-- Status belongs to no element, so that a wait leaves everything else unchanged. -/
theorem frame_awaitKey : Frame [] [] s s.awaitKey :=
  ⟨fun _ _ => rfl, fun el _ => by cases el <;> simp [Element.same]⟩

theorem frame_takeKey (draw : Nat) (x : RegIdx) : Frame [x] [.draws] s (s.takeKey draw x) := by
  have hwrite : Frame [x] [.draws] s (s.setV x (keyCode (keyChoice draw s.pressedKeys))) :=
    (frame_setV s x _).mono (List.Subset.refl _) (List.nil_subset _)
  exact hwrite.trans ((frame_countDraw _).mono (List.nil_subset _) (List.Subset.refl _))

theorem takeKey_readV (draw : Nat) (x : RegIdx) :
    (s.takeKey draw x).readV x = keyCode (keyChoice draw s.pressedKeys) := by
  simp [State.takeKey]

end

theorem exec_ldVxK_of_pressed {x : RegIdx} {s : State} (h : s.pressedKeys ≠ []) :
    exec (.ldVxK x) s = .next (s.takeKey (Config.keyDraw s.draws) x).advance :=
  if_neg fun hempty => h (List.isEmpty_iff.mp hempty)

/-! ### Timer writes (45_keypad_timers.md R184, R185) -/

section
variable (s : State) (b : Byte)

theorem frame_setDt : Frame [] [.delay] s (s.setDt b) := by
  refine ⟨fun _ _ => rfl, fun el hel => ?_⟩
  cases el with
  | delay => simp at hel
  | _ => simp [Element.same]

theorem frame_setSt : Frame [] [.sound] s (s.setSt b) := by
  refine ⟨fun _ _ => rfl, fun el hel => ?_⟩
  cases el with
  | sound => simp at hel
  | _ => simp [Element.same]

theorem State.soundActive_iff : s.soundActive = true ↔ s.st.toNat ≠ 0 := by
  rw [State.soundActive, bne_iff_ne, ne_eq, BitVec.toNat_eq]
  rfl

end

end Sys2Proof.Machine
end

section
/-! PROOFS. The statements about the keypad and the timer instructions (45_keypad_timers.md). -/

namespace Sys2Proof.Machine

/-- Settles O45: the check of the key index decides, and SKNP skips on the negated test of SKP. -/
theorem keySkipsTestTheLatchedKey : Obligations.KeySkipsTestTheLatchedKey := by
  refine ⟨selects_skpVx, selects_sknpVx, fun x s => ?_⟩
  rw [exec_skpVx, exec_sknpVx]
  refine ⟨fun hpast => ?_, fun k hk => ?_⟩
  · exact ⟨State.checked_rejects (checkKey_past hpast) rfl, State.checked_rejects (checkKey_past hpast) rfl⟩
  · have hcheck : checkKey (s.readV x) = none := checkKey_none_iff.mpr (by omega)
    rw [State.keyDown_of_toNat hk]
    exact ⟨⟨_, State.checked_completes hcheck, completes_skipIf s s.key[k]⟩,
      ⟨_, State.checked_completes hcheck, completes_skipIf_not s s.key[k]⟩⟩

/-- Settles O46: with no key pressed the wait changes only the status; otherwise the key taken is a member of the pressed
set, and a pressed key is chosen by the draw of its position. -/
theorem keyWaitReportsAPressedKey : Obligations.KeyWaitReportsAPressedKey := by
  refine ⟨selects_ldVxK, fun x s => ⟨fun hnone => ?_, fun ⟨k, hk⟩ => ?_, fun k hk => ?_⟩⟩
  · exact ⟨s.awaitKey, exec_of_isKeyWait ⟨⟨x, rfl⟩, hnone⟩, rfl, rfl, frame_awaitKey s⟩
  · have hpressed : s.pressedKeys ≠ [] := List.ne_nil_of_mem (State.mem_pressedKeys.mpr hk)
    have hchoice : s.key[keyChoice (Config.keyDraw s.draws) s.pressedKeys] = true :=
      State.mem_pressedKeys.mp (keyChoice_mem hpressed)
    refine ⟨_, exec_ldVxK_of_pressed hpressed, ⟨_, hchoice, ?_⟩, (frame_takeKey s _ x).completes_advance rfl⟩
    rw [State.advance_readV, takeKey_readV, keyCode_toNat]
  · exact exists_draw_of_mem (State.mem_pressedKeys.mpr hk)

/-- Settles O47: one register write and two timer writes; the sound is active while ST, now V[x], is not 0. -/
theorem timerInstructionsMoveTheirTimer : Obligations.TimerInstructionsMoveTheirTimer := by
  refine ⟨selects_ldVxDt, selects_ldDtVx, selects_ldStVx, fun x s => ⟨?_, ?_, ?_⟩⟩
  · exact ⟨_, rfl, setV_advance_effect s x s.dt⟩
  · exact ⟨_, rfl, rfl, (frame_setDt s (s.readV x)).completes_advance rfl⟩
  · exact ⟨_, rfl, rfl, State.soundActive_iff _, (frame_setSt s (s.readV x)).completes_advance rfl⟩

end Sys2Proof.Machine
end

section
/-! SUPPORT. The events, said once: each but `Step` in one equation, what each leaves unchanged, that no `Step` changes a key
flag, and which events have a next state (60_exceptions.md R209 to R214). -/

namespace Sys2Proof.Machine

/-! ### The next event, delivered -/

section
variable {s : State} {rest : List Event}

/-- Taking the event leaves the events behind it, and nothing else changes. -/
theorem takeEvent_eq {e : Event} (h : s.pending = e :: rest) : s.takeEvent = { s with pending := rest } := by
  obtain rfl : s.pending.tail = rest := (nextEvent_cons h).2
  rfl

theorem step_keyLatch {keys : BitVec 16} (h : s.pending = .keyLatch keys :: rest) :
    step s = .next (s.takeEvent.keyLatch keys) := by
  rw [step_eq, (nextEvent_cons h).1]; rfl

theorem step_timerTick (h : s.pending = .timerTick :: rest) : step s = .next s.takeEvent.timerTick := by
  rw [step_eq, (nextEvent_cons h).1]; rfl

theorem step_frameOut (h : s.pending = .frameOut :: rest) : step s = .next { s with pending := rest } := by
  rw [step_eq, (nextEvent_cons h).1, ← takeEvent_eq h]; rfl

/-- A `FrameOut` that comes next hands out the buffer as it is (60_exceptions.md R214). -/
theorem frameDelivered_frameOut (h : s.pending = .frameOut :: rest) : s.frameDelivered = some s.fb := by
  simp [State.frameDelivered, (nextEvent_cons h).1]

theorem step_reset {image : List Byte} (h : s.pending = .reset image :: rest) : step s = doReset image s.takeEvent := by
  rw [step_eq, (nextEvent_cons h).1]; rfl

end

/-! ### What each event leaves unchanged -/

section
variable (s : State)

theorem frame_takeEvent : Frame [] [.pending] s s.takeEvent := by
  refine ⟨fun _ _ => rfl, fun el hel => ?_⟩
  cases el with
  | pending => simp at hel
  | _ => simp [Element.same]

theorem frame_keyLatch (keys : BitVec 16) : Frame [] [.keys] s (s.keyLatch keys) := by
  refine ⟨fun _ _ => rfl, fun el hel => ?_⟩
  cases el with
  | keys => simp at hel
  | _ => simp [Element.same]

theorem frame_timerTick : Frame [] [.delay, .sound] s s.timerTick := by
  refine ⟨fun _ _ => by simp [State.readV], fun el hel => ?_⟩
  cases el with
  | delay | sound => simp at hel
  | _ => simp [Element.same, State.readByte]

/-- A timer tick looks only at the status, so that the event may be taken before or after it. -/
theorem timerTick_takeEvent : s.takeEvent.timerTick = s.timerTick.takeEvent := by
  by_cases hf : s.status = .faulted
  · rw [State.timerTick_faulted hf, State.timerTick_faulted (s := s.takeEvent) hf]
  · rw [State.timerTick_counting hf, State.timerTick_counting (s := s.takeEvent) hf]
    rfl

/-- Each key flag is its bit of the latch (60_exceptions.md R213). -/
theorem State.keyLatch_getElem (keys : BitVec 16) (k : Fin 16) : (s.keyLatch keys).key[k] = keys.getLsbD k.val := by
  simp

end

/-- What is unchanged since the event was taken is unchanged but for the list of events. -/
theorem Frame.of_takeEvent {regs : List RegIdx} {els : List Element} {s t : State} (h : Frame regs els s.takeEvent t) :
    Frame regs (els ++ [.pending]) s t :=
  ((frame_takeEvent s).mono (List.nil_subset _) (List.subset_append_right _ _)).trans
    (h.mono (List.Subset.refl _) (List.subset_append_left _ _))

/-! ### What the host owns (10_state.md R35, log 3) -/

/-- No instruction changes the key flags or the list of events. -/
theorem exec_keeps_keys_pending {i : Instr} {s t : State} (h : exec i s = .next t) :
    t.key = s.key ∧ t.pending = s.pending := by
  rcases exec_cases h with ⟨e, _, _, _, rfl⟩ | hc
  · exact ⟨s.raise_key e, s.raise_pending e⟩
  · obtain ⟨_, _, hkey, hpending, _⟩ := completed_keeps hc
    exact ⟨hkey, hpending⟩

/-- A `Step` keeps the key flags and takes only itself off the list. -/
theorem step_keeps_keys_pending {s t : State} (hdue : StepDue s) (hstep : step s = .next t) :
    t.key = s.key ∧ t.pending = s.pending.tail := by
  rcases step_cases hdue hstep with ⟨_, rfl⟩ | ⟨_, e, _, rfl⟩ | ⟨_, _, i, _, hexec⟩
  · exact ⟨rfl, rfl⟩
  · exact ⟨(stepStart s).raise_key e, (stepStart s).raise_pending e⟩
  · exact exec_keeps_keys_pending hexec

/-! ### Every event but an oversize `Reset` has a next state (60_exceptions.md R202, R209) -/

theorem fetchAndExec_total (s : State) : ∃ t, fetchAndExec s = .next t := by
  unfold fetchAndExec
  cases s.checkFetch with
  | some e => exact ⟨s.raise e, rfl⟩
  | none =>
    cases hd : decode s.fetch with
    | some i =>
      obtain ⟨t, ht⟩ := everyInstructionAnswersANextState i s
      exact ⟨t, (execWord_some hd).trans ht⟩
    | none => exact ⟨_, execWord_none hd⟩

theorem cpuStep_total (s : State) : ∃ t, cpuStep s = .next t := by
  by_cases he : Engaged s
  · rw [cpuStep_engaged he]
    exact fetchAndExec_total s.clearOutputs
  · exact ⟨s.clearOutputs, cpuStep_resting he⟩

theorem deliver_total {e : Event} (s : State) (h : ∀ image, e = .reset image → image.length ≤ 3584) :
    ∃ t, deliver e s = .next t := by
  cases e with
  | reset image => exact ⟨_, doReset_fits s (Nat.lt_succ_of_le (h image rfl))⟩
  | step => exact cpuStep_total s
  | keyLatch | timerTick | frameOut => exact ⟨_, rfl⟩

end Sys2Proof.Machine
end

section
/-! PROOFS. The statements about errors, about each event, and about the refusal of an event (60_exceptions.md R201, R203,
R209 to R214). -/

namespace Sys2Proof.Machine

/-- Settles O20: a rejected instruction raises the one error its rule names; a completed one signals nothing but the
STACK_UNDERFLOW of `RET`. -/
theorem errorsComeFromTheirInstructions : Obligations.ErrorsComeFromTheirInstructions := by
  intro i s t hexec
  rcases exec_cases hexec with ⟨e, _, hraised, _, rfl⟩ | hc
  · exact .inr ⟨e, hraised, State.raise_reports s e⟩
  · rcases completed_errors hc with hsame | ⟨hret, hempty, hreport⟩
    · exact .inl hsame
    · exact .inr ⟨.stackUnderflow s.pc, ⟨hret, hempty, rfl⟩, hreport⟩

/-- Settles O48: the tick is `timerTick` on the state without the event, and the status alone decides whether it counts. -/
theorem timerTickLowersBothTimers : Obligations.TimerTickLowersBothTimers := by
  intro s rest hpending
  have htake : s.takeEvent.pending = rest := (nextEvent_cons hpending).2
  refine ⟨s.takeEvent.timerTick, step_timerTick hpending, ?_, ?_, ?_, fun hfaulted => ?_, fun hcounting => ?_,
    (frame_timerTick s.takeEvent).of_takeEvent⟩
  · rw [State.timerTick_pending, htake]
  · exact State.timerTick_pc s.takeEvent
  · exact State.timerTick_status s.takeEvent
  · rw [State.timerTick_faulted (s := s.takeEvent) hfaulted]
    exact ⟨rfl, rfl⟩
  · exact State.timerTick_toNat (s := s.takeEvent) hcounting

/-- Only a `KeyLatch` or a `Reset` changes a key flag (60_exceptions.md R213). -/
theorem step_keeps_keys {s t : State} (hstep : step s = .next t) (hlatch : ∀ keys, s.nextEvent ≠ .keyLatch keys)
    (hreset : ∀ image, s.nextEvent ≠ .reset image) : t.key = s.key := by
  cases he : s.nextEvent with
  | reset image => exact absurd he (hreset image)
  | keyLatch keys => exact absurd he (hlatch keys)
  | step => exact (step_keeps_keys_pending he hstep).1
  | timerTick | frameOut =>
    rw [step_eq, he] at hstep
    cases hstep
    simp

/-- A tick's events hold one `KeyLatch`, the first (60_exceptions.md R212). -/
theorem tickEvents_latches_once (keys : BitVec 16) (k : Nat) (timerDue frameDue : Bool) :
    ∃ es, tickEvents keys k timerDue frameDue = .keyLatch keys :: es ∧ ∀ keys', .keyLatch keys' ∉ es := by
  refine ⟨_, rfl, fun keys' hmem => ?_⟩
  rcases List.mem_append.mp hmem with hmem | hframe
  · rcases List.mem_append.mp hmem with hsteps | htimer
    · cases List.eq_of_mem_replicate hsteps
    · cases timerDue <;> simp at htimer
  · cases frameDue <;> simp at hframe

/-- Settles O49: the latch itself, the events that keep the keys, and the place of the latch in a tick. -/
theorem keyLatchSetsEveryKey : Obligations.KeyLatchSetsEveryKey := by
  refine ⟨fun s keys rest hpending => ?_, fun s t => step_keeps_keys, tickEvents_latches_once⟩
  exact ⟨s.takeEvent.keyLatch keys, step_keyLatch hpending, (nextEvent_cons hpending).2, rfl, rfl,
    s.takeEvent.keyLatch_getElem keys, (frame_keyLatch s.takeEvent keys).of_takeEvent⟩

/-- Settles O50: the delivery reads the next event and the buffer, and the event changes nothing but the list. -/
theorem frameOutDeliversTheBufferUnchanged : Obligations.FrameOutDeliversTheBufferUnchanged := by
  refine ⟨fun s rest hpending => ⟨frameDelivered_frameOut hpending, step_frameOut hpending⟩, fun s hother => ?_⟩
  unfold State.frameDelivered
  cases he : s.nextEvent with
  | frameOut => exact absurd he hother
  | reset | keyLatch | step | timerTick => rfl

/-- Settles O55: the length of the image alone decides on a `Reset`, and every other event has a next state. -/
theorem onlyAnOversizeResetIsRefused : Obligations.OnlyAnOversizeResetIsRefused := by
  refine ⟨fun s image rest hpending hlong => ?_, fun s hfits => deliver_total s.takeEvent hfits⟩
  rw [step_reset hpending]
  exact doReset_oversize s.takeEvent (by omega)

end Sys2Proof.Machine
end

section
/-! PROOFS. The statements about several events in a row: the timer ticks and a whole tick (60_exceptions.md R210 to
R215). -/

namespace Sys2Proof.Machine

/-! ### Timer ticks in a row (60_exceptions.md R210, R215) -/

/-- Settles O52, by induction on the number of ticks: each lowers both timers by one and keeps the status. -/
theorem timerTicksCountDownToZero : Obligations.TimerTicksCountDownToZero := by
  intro n
  induction n with
  | zero => exact fun s rest _ _ => ⟨s, rfl, rfl, rfl⟩
  | succ n ih =>
    intro s rest hcounting hpending
    rw [List.replicate_succ, List.cons_append] at hpending
    have htail : s.takeEvent.timerTick.pending = List.replicate n .timerTick ++ rest := by
      rw [State.timerTick_pending, (nextEvent_cons hpending).2]
    obtain ⟨hdt, hst⟩ := State.timerTick_toNat (s := s.takeEvent) hcounting
    obtain ⟨t, hrun, hdtRun, hstRun⟩ := ih s.takeEvent.timerTick rest (by simpa using hcounting) htail
    refine ⟨t, (run_succ n (step_timerTick hpending)).trans hrun, ?_, ?_⟩
    · rw [hdtRun, hdt, State.takeEvent_dt]
      omega
    · rw [hstRun, hst, State.takeEvent_st]
      omega

/-! ### The parts of a tick (60_exceptions.md R212) -/

theorem run_one {s t : State} (h : step s = .next t) : Sys2Proof.core.run 1 s = .next t :=
  run_succ 0 h

/-- `k` Steps in a row all answer, keep the key flags and leave the events behind them (60_exceptions.md R213). -/
theorem run_steps {k : Nat} {s : State} {rest : List Event} (h : s.pending = List.replicate k .step ++ rest) :
    ∃ t : State, Sys2Proof.core.run k s = .next t ∧ t.key = s.key ∧ t.pending = rest := by
  induction k generalizing s with
  | zero => exact ⟨s, rfl, rfl, h⟩
  | succ k ih =>
    rw [List.replicate_succ, List.cons_append] at h
    have hdue : StepDue s := (nextEvent_cons h).1
    obtain ⟨u, hstep⟩ := deliver_total s.takeEvent fun image himage => by cases hdue.symm.trans himage
    obtain ⟨hkeyStep, hpending⟩ := step_keeps_keys_pending hdue hstep
    obtain ⟨t, hrun, hkey, hrest⟩ := ih (s := u) (by rw [hpending, h, List.tail_cons])
    exact ⟨t, (run_succ k hstep).trans hrun, hkey.trans hkeyStep, hrest⟩

/-- The decrement, when it is due. -/
theorem run_timerDue {due : Bool} {s : State} {rest : List Event}
    (h : s.pending = (if due then [.timerTick] else []) ++ rest) :
    Sys2Proof.core.run due.toNat s = .next { (if due then s.timerTick else s) with pending := rest } := by
  cases due with
  | false =>
    obtain rfl : s.pending = rest := h
    rfl
  | true =>
    have hpending : s.pending = .timerTick :: rest := h
    refine (run_one (step_timerTick hpending)).trans (congrArg Host.Outcome.next ?_)
    rw [timerTick_takeEvent]
    exact takeEvent_eq (e := .timerTick) (by rw [State.timerTick_pending, hpending])

/-- The frame, when it is due. -/
theorem run_frameDue {due : Bool} {s : State} {rest : List Event}
    (h : s.pending = (if due then [.frameOut] else []) ++ rest) :
    Sys2Proof.core.run due.toNat s = .next { s with pending := rest } := by
  cases due with
  | false =>
    obtain rfl : s.pending = rest := h
    rfl
  | true => exact run_one (step_frameOut h)

/-- The latch and the `k` Steps of a tick: the keys are the latched ones, and the rest of the tick is pending. -/
theorem run_latch_steps {k : Nat} {keys : BitVec 16} {s : State} {rest : List Event}
    (h : s.pending = .keyLatch keys :: (List.replicate k .step ++ rest)) :
    ∃ u : State, Sys2Proof.core.run (1 + k) s = .next u ∧ (∀ j : Fin 16, u.key[j] = keys.getLsbD j.val)
      ∧ u.pending = rest := by
  obtain ⟨u, hrun, hkey, hrest⟩ := run_steps (s := s.takeEvent.keyLatch keys) (nextEvent_cons h).2
  refine ⟨u, (run_add 1 k (run_one (step_keyLatch h))).trans hrun, fun j => ?_, hrest⟩
  rw [hkey, State.keyLatch_getElem]

/-- Settles O51: the parts of the tick run one after another, each from the state that the part before it answered. -/
theorem tickLatchesKeysThenStepsThenTimers : Obligations.TickLatchesKeysThenStepsThenTimers := by
  intro s keys k timerDue frameDue rest hpending
  obtain ⟨u, hsteps, hkeys, hrest⟩ := run_latch_steps (k := k) (keys := keys) (s := s)
    (rest := (if timerDue then [.timerTick] else []) ++ ((if frameDue then [.frameOut] else []) ++ rest))
    (by simpa only [tickEvents, List.cons_append, List.append_assoc] using hpending)
  have htimers := (run_add (1 + k) timerDue.toNat hsteps).trans (run_timerDue hrest)
  refine ⟨u, hsteps, hkeys, (run_add _ frameDue.toNat htimers).trans (run_frameDue rfl), fun hframe t ht => ?_⟩
  subst hframe
  cases htimers.symm.trans ht
  refine (frameDelivered_frameOut (rest := rest) rfl).trans ?_
  cases timerDue <;> simp

end Sys2Proof.Machine
end

section
/-! PROOFS. The statements about the `Reset` event and about what the other events leave of its inputs
(70_reset_and_hazards.md R230, R233). -/

namespace Sys2Proof.Machine

/-! ### The `Reset` event (70_reset_and_hazards.md R230) -/

/-- The reset contents without an image: the font in its region, zero elsewhere (20_memory.md R51, R52). -/
theorem Memory.unlisted_eq (c : Config) (a : Nat) :
    Memory.unlisted c a =
      if h : c.fontBase ≤ a ∧ a < c.fontBase + 80 then c.fontData[a - c.fontBase] else 0x00 := by
  split
  · next h =>
    obtain ⟨k, rfl⟩ := Nat.exists_eq_add_of_le h.1
    simpa using Memory.unlisted_font (c := c) ⟨k, by omega⟩
  · next h => exact Memory.unlisted_outside (Bool.eq_false_iff.mpr (h ∘ Memory.inFont_iff.mp))

/-- Under a legal configuration the image ends up behind the font, so a reset keeps every font byte
(20_memory.md R51, R52). -/
theorem State.afterReset_readByte_regions {s : State} {image : List Byte} (hfits : image.length < 3585)
    (hcfg : s.cfg.wf = true) (a : Nat) :
    (s.afterReset image hfits).readByte a =
      if h : s.cfg.fontBase ≤ a ∧ a < s.cfg.fontBase + 80 then s.cfg.fontData[a - s.cfg.fontBase]
      else if h : 0x200 ≤ a ∧ a < 0x200 + image.length then image[a - 0x200]'(by omega) else 0x00 := by
  have hbase : s.cfg.fontBase + 80 ≤ 0x200 := of_decide_eq_true hcfg
  rw [State.afterReset_readByte, Memory.unlisted_eq]
  by_cases hfont : s.cfg.fontBase ≤ a ∧ a < s.cfg.fontBase + 80
  · rw [if_neg (by omega), dif_pos hfont, dif_pos hfont]
  · rw [dif_neg hfont, dif_neg hfont]
    split
    · next himage => exact Option.getD_eq_iff.mpr (.inl (List.getElem?_eq_getElem (by omega)))
    · rfl

/-- Settles O54: memory by its regions, and every other element is that of the reset state. -/
theorem resetEventInitialisesEverything : Obligations.ResetEventInitialisesEverything := by
  intro s image rest hpending hlength hcfg
  have hfits : image.length < 3585 := Nat.lt_succ_of_le hlength
  have hrest : s.takeEvent.pending = rest := (nextEvent_cons hpending).2
  obtain ⟨hv, _, _, _, _, _, hstk, hkey, hfb, _⟩ := resetStateHoldsTheSpecifiedValues
  exact ⟨s.takeEvent.afterReset image hfits, (step_reset hpending).trans (doReset_fits s.takeEvent hfits), rfl,
    State.afterReset_readByte_regions (s := s.takeEvent) hfits hcfg, hv, rfl, rfl, rfl, rfl, hstk, rfl, hkey, hfb,
    rfl, rfl, rfl, rfl, rfl, rfl, rfl, hrest⟩

/-! ### What stays from one `Reset` to the next (70_reset_and_hazards.md R233) -/

/-- An instruction changes neither the configuration nor `ROM_LEN`. -/
theorem exec_keeps_setup {i : Instr} {s t : State} (h : exec i s = .next t) : t.cfg = s.cfg ∧ t.romLen = s.romLen := by
  rcases exec_cases h with ⟨e, _, _, _, rfl⟩ | hc
  · exact ⟨s.raise_cfg e, s.raise_romLen e⟩
  · obtain ⟨hcfg, hlen, _⟩ := completed_keeps hc
    exact ⟨hcfg, hlen⟩

/-- A `Step` changes neither the configuration nor `ROM_LEN`, whether it rests, raises an error or executes. -/
theorem stepDue_keeps_setup {s t : State} (hdue : StepDue s) (hstep : step s = .next t) :
    t.cfg = s.cfg ∧ t.romLen = s.romLen := by
  rcases step_cases hdue hstep with ⟨_, rfl⟩ | ⟨_, e, _, rfl⟩ | ⟨_, _, i, _, hexec⟩
  · exact ⟨rfl, rfl⟩
  · exact ⟨(stepStart s).raise_cfg e, (stepStart s).raise_romLen e⟩
  · exact exec_keeps_setup (s := stepStart s) hexec

/-- A `Reset` that answers a state keeps the configuration, whatever its image. -/
theorem doReset_keeps_cfg {image : List Byte} {s t : State} (h : doReset image s = .next t) : t.cfg = s.cfg := by
  by_cases hfits : image.length < 3585
  · cases (doReset_fits s hfits).symm.trans h
    exact s.afterReset_cfg image hfits
  · cases (doReset_oversize s hfits).symm.trans h

/-- Settles O58, event by event: a `Reset` writes `ROM_LEN` alone of the two, and no other event writes either. -/
theorem onlyResetChangesTheLoadBound : Obligations.OnlyResetChangesTheLoadBound := by
  intro s t hstep
  cases he : s.nextEvent with
  | reset image =>
    rw [step_eq, he] at hstep
    exact ⟨doReset_keeps_cfg (image := image) (s := s.takeEvent) hstep, fun hreset => absurd rfl (hreset image)⟩
  | step =>
    obtain ⟨hcfg, hlen⟩ := stepDue_keeps_setup he hstep
    exact ⟨hcfg, fun _ => by rw [State.loadEnd, hlen, State.loadEnd]⟩
  | keyLatch | timerTick | frameOut =>
    rw [step_eq, he] at hstep
    cases hstep
    simp [State.loadEnd]

end Sys2Proof.Machine
end
